-- ==== Sys2Proof/Word.lean ====
section
/-! DEFINITION. The word types of the block (00_scope.md R7, R9): bytes, 16-bit and 32-bit unsigned words. -/

namespace Sys2Proof

/-- A byte, 0 to 255 (R9). -/
abbrev Byte := BitVec 8

/-- A 16-bit word: the length field and the checksum (R7). -/
abbrev Word16 := BitVec 16

/-- A 32-bit word: the device address (R7). -/
abbrev Word32 := BitVec 32

/-- A byte sequence (R10): element 0 is the first byte on the link or in the caller's buffer. -/
abbrev Bytes := List (BitVec 8)

end Sys2Proof
end

