-- ==== Sys2Proof/Syntax.lean ====
section
/-! DEFINITION. What is said to the block and what it answers: the packet types (30_encoding.md R74), the ten host
operations and the four frames of the opcode table (R83, R70), the error kinds (60_exceptions.md R210), the refusal
reasons (R223) and the result of an operation (30_encoding.md R85). -/

namespace Sys2Proof

/-- "a closed tagged enum" of four packet types (R74). -/
inductive PacketType where
  | command
  | data
  | ack
  | endData
deriving DecidableEq, Repr, Inhabited

/-- One constructor per row of spec/opcode_table.json. -/
inductive Instr where
  /-- OP 0x0, R100: address, packet-type code, payload. -/
  | encode (addr : Word32) (typ : Byte) (payload : Bytes)
  /-- OP 0x1, R101: received bytes, expected address, expected packet-type code. -/
  | decode (rawb : Bytes) (ea : Word32) (et : Byte)
  /-- OP 0x2, R140: packet-type code, payload. -/
  | checksum (typ : Byte) (payload : Bytes)
  /-- OP 0x3, R154: channel id, initial address, read timeout; the first and the last are opaque. -/
  | openChannel (chan : Nat) (addr : Word32) (timeout : Nat)
  /-- OP 0x4, R155: payload. -/
  | sendCommand (payload : Bytes)
  /-- OP 0x5, R156: expected packet-type code, most bytes of the one read. -/
  | receive (et : Byte) (maxBytes : Nat)
  /-- OP 0x6, R157: command payload, most bytes of the response read. -/
  | transfer (payload : Bytes) (expectedLen : Nat)
  /-- OP 0x7, R158: the new address. -/
  | setAddress (addr : Word32)
  /-- OP 0x8, R181: packet count, packet size. -/
  | download (count : Nat) (size : Nat)
  /-- OP 0x9, R182: the buffer, packet size. -/
  | upload (buffer : Bytes) (size : Nat)
  /-- A Command frame on the link (R102): address, length field, and the bytes the length field counts
  (the payload and the two checksum bytes). -/
  | frameCommand (addr : Word32) (len : Word16) (body : Bytes)
  /-- A Data frame on the link (R103). -/
  | frameData (addr : Word32) (len : Word16) (body : Bytes)
  /-- An Ack frame on the link (R104). -/
  | frameAck (addr : Word32) (len : Word16) (body : Bytes)
  /-- An EndData frame on the link (R105). -/
  | frameEndData (addr : Word32) (len : Word16) (body : Bytes)
deriving DecidableEq, Repr

/-- The nine error kinds (R210), in the source's order. -/
inductive ErrorKind where
  | connectionError
  | writeError
  | emptyRead
  | headerMismatch
  | addressMismatch
  | typeMismatch
  | checksumMismatch
  | shortTransfer
  /-- Reserved for the caller: the block never raises it (R221). -/
  | statusError
deriving DecidableEq, Repr, Inhabited

/-- The nine refusal reasons (R223). -/
inductive RefuseReason where
  | notOpen
  | alreadyOpen
  | badType
  | badLength
  | badCount
  | badPacketSize
  | emptyBuffer
  | busy
  | badOp
deriving DecidableEq, Repr, Inhabited

/-- The value of a successful operation (the column "result on success" of R83). -/
inductive OpValue where
  | unit
  | bytes (bs : Bytes)
  | word (w : Word16)
deriving DecidableEq, Repr

/-- The result delivered to the host (R85). -/
inductive OpResult where
  | ok (v : OpValue)
  | error (k : ErrorKind)
  | refused (r : RefuseReason)
deriving DecidableEq, Repr

end Sys2Proof
end

