-- ==== Sys2Proof/Config.lean ====
section
/-! DEFINITION. What the spec leaves open. Every constant here has no body: nothing can be proved of its value. -/

namespace Sys2Proof

/-- The environment's part of ONE channel primitive (42_transport_session.md R150 to R153, R163): what happens on
the link before the call is answered, and the answer. Each primitive looks only at the fields that concern it.
DESIGN CHOICE, log entry 4. -/
structure ChanEvent where
  /-- Bytes that arrive from the sensor before the call is answered. -/
  arrive : Bytes
  /-- The caller closes the channel from outside before the call is answered (R256). -/
  closes : Bool
  /-- A read of a closed channel answers `Closed` when true, an empty sequence when false (92 D16). -/
  saysClosed : Bool
  /-- How many of the pending bytes a read returns before its timeout elapses (R151: "Which bytes and how many is the
  channel's answer"). -/
  gives : Nat
  /-- How many bytes the channel is ready to accept from a write. -/
  accepts : Nat
  /-- The channel can be opened (R163). -/
  opens : Bool
  /-- The stream that an opening establishes still holds the bytes that were pending before (log entry 6). -/
  keeps : Bool
deriving DecidableEq, Repr, Inhabited

namespace Config

/-- FREE VALUE. What the environment does at the n-th channel call that State's script does not foresee
(93 U6 to U9; log entry 4). -/
opaque chanEvent : Nat → ChanEvent

/-- Parameter SETTLE_DELAY (00_scope.md R8): no value, no unit, and in a model without time no effect (R62). -/
opaque settleDelay : Nat

/-- FREE VALUE. What a read outside a byte space would give (20_memory.md R51: it is not defined and no rule makes
one); log entry 12. -/
opaque outsideSpace : Nat → Byte

/-- FREE VALUE. What kind a code that RXERR never holds would stand for (60_exceptions.md R211: "reserved, never
held"); log entry 12. -/
opaque reservedKind : BitVec 4 → ErrorKind

end Config

end Sys2Proof
end

