-- ==== Sys2Proof/WellFormed.lean ====
section
/-! DEFINITION. Which instructions have an encoding. A host operation has one for all operand values (an operand
outside its documented domain is a request like any other, which the block refuses: 60_exceptions.md R222). A frame
has one when its body has as many bytes as its length field says (30_encoding.md R78). -/

namespace Sys2Proof

/-- R78: after the header "the frame then continues for `LEN` more bytes". -/
def bodyFits (len : Word16) (body : Bytes) : Bool := body.length == len.toNat

/-- The instruction is the meaning of some byte string. -/
def wellFormed : Instr → Bool
  | .encode _ _ _ => true
  | .decode _ _ _ => true
  | .checksum _ _ => true
  | .openChannel _ _ _ => true
  | .sendCommand _ => true
  | .receive _ _ => true
  | .transfer _ _ => true
  | .setAddress _ => true
  | .download _ _ => true
  | .upload _ _ => true
  | .frameCommand _ len body => bodyFits len body
  | .frameData _ len body => bodyFits len body
  | .frameAck _ len body => bodyFits len body
  | .frameEndData _ len body => bodyFits len body

end Sys2Proof
end

