-- ==== Sys2Proof/Decode.lean ====
section
/-! DEFINITION. Encodings, both directions: byte order and field assembly (30_encoding.md R80, 20_memory.md R52),
packet-type codes (R74), the wire frame (R70, R79), the host request. The wire frame and the OP numbers are the
spec's; how a request carries its operands "is not specified" (R83), and the byte form here is the model's
(DESIGN CHOICE, log entry 2). -/

namespace Sys2Proof

/-! ### Byte order (R9, R52) -/

/-- `be16(v) = [v[15:8], v[7:0]]`. -/
def be16 (v : Word16) : Bytes := [v.extractLsb' 8 8, v.extractLsb' 0 8]

/-- `be32(v) = [v[31:24], v[23:16], v[15:8], v[7:0]]`. -/
def be32 (v : Word32) : Bytes :=
  [v.extractLsb' 24 8, v.extractLsb' 16 8, v.extractLsb' 8 8, v.extractLsb' 0 8]

/-- `from_be16(b0, b1) = 256*b0 + b1`. -/
def fromBe16 (b0 b1 : Byte) : Word16 := b0 ++ b1

/-- `from_be32`, most significant byte first. -/
def fromBe32 (b0 b1 b2 b3 : Byte) : Word32 := b0 ++ b1 ++ b2 ++ b3

/-! ### Packet types (R74) -/

def PacketType.code : PacketType → Byte
  | .command => 0x01
  | .data => 0x02
  | .ack => 0x07
  | .endData => 0x08

/-- The type a code names; codes other than the four are reserved (R81). -/
def PacketType.ofCode? (c : Byte) : Option PacketType :=
  if c = 0x01 then some .command
  else if c = 0x02 then some .data
  else if c = 0x07 then some .ack
  else if c = 0x08 then some .endData
  else none

/-! ### The frame (R70) -/

/-- The 9-byte header: start code, address, packet type, length field (R71 to R75). -/
def frameHeader (addr : Word32) (typ : Byte) (len : Word16) : Bytes :=
  [0xEF, 0x01] ++ be32 addr ++ [typ] ++ be16 len

/-- A frame on the link: the header and the bytes its length field counts. -/
def frameBytes (addr : Word32) (t : PacketType) (len : Word16) (body : Bytes) : Bytes :=
  frameHeader addr t.code len ++ body

/-- Why a byte string is no instruction. -/
inductive DecodeError where
  /-- No byte at all: no operation selector. -/
  | empty
  /-- The operation selector is 0xA to 0xF (R84). -/
  | badOp (op : BitVec 4)
  /-- The string ends before the operands or the frame do. -/
  | truncated
  /-- The string does not begin with the start code EF 01 (R71). -/
  | badStart
  /-- A reserved packet-type code (R81). -/
  | reservedType (code : Byte)
deriving DecidableEq, Repr

/-- The instruction a frame of type `t` is. -/
def frameInstr (t : PacketType) (addr : Word32) (len : Word16) (body : Bytes) : Instr :=
  match t with
  | .command => .frameCommand addr len body
  | .data => .frameData addr len body
  | .ack => .frameAck addr len body
  | .endData => .frameEndData addr len body

/-- The bytes after a header whose start code was right: the type picks the row (R79), the length field the end. -/
def decodeFrameBody (addr : Word32) (typ : Byte) (len : Word16) (rest : Bytes) :
    Except DecodeError (Instr × Bytes) :=
  match PacketType.ofCode? typ with
  | none => .error (.reservedType typ)
  | some t =>
    if rest.length < len.toNat then .error .truncated
    else .ok (frameInstr t addr len (rest.take len.toNat), rest.drop len.toNat)

/-- Read one frame from the front of the link's bytes (R79: the header says the row; R78: the length field says
where it ends). It does not validate: that is DECODE (R101). -/
def decodeFrame : Bytes → Except DecodeError (Instr × Bytes)
  | s0 :: s1 :: a0 :: a1 :: a2 :: a3 :: t :: l0 :: l1 :: rest =>
    if s0 = 0xEF ∧ s1 = 0x01 then
      decodeFrameBody (fromBe32 a0 a1 a2 a3) t (fromBe16 l0 l1) rest
    else .error .badStart
  | [] => .error .empty
  | _ => .error .truncated

/-! ### The request's byte form (DESIGN CHOICE, log entry 2) -/

/-- A natural number in groups of seven bits, least significant first, bit 7 set on all but the last. -/
def encodeNatFuel : Nat → Nat → Bytes
  | 0, n => [BitVec.ofNat 8 n]
  | fuel + 1, n =>
    if n < 128 then [BitVec.ofNat 8 n]
    else BitVec.ofNat 8 (128 + n % 128) :: encodeNatFuel fuel (n / 128)

def encodeNat (n : Nat) : Bytes := encodeNatFuel n n

/-- A byte sequence: its length, then its bytes. -/
def encodeBytes (p : Bytes) : Bytes := encodeNat p.length ++ p

def takeByte : Bytes → Option (Byte × Bytes)
  | b :: bs => some (b, bs)
  | [] => none

def takeWord32 : Bytes → Option (Word32 × Bytes)
  | a :: b :: c :: d :: bs => some (fromBe32 a b c d, bs)
  | _ => none

def takeNat : Bytes → Option (Nat × Bytes)
  | [] => none
  | b :: bs =>
    if b.toNat < 128 then some (b.toNat, bs)
    else
      match takeNat bs with
      | none => none
      | some (n, rest) => some (b.toNat - 128 + 128 * n, rest)

def takeBytes (bs : Bytes) : Option (Bytes × Bytes) :=
  match takeNat bs with
  | none => none
  | some (n, rest) => if rest.length < n then none else some (rest.take n, rest.drop n)

/-- The operands of the operation `op`, in the order of R83; none when they are cut short. -/
def takeOperands (op : BitVec 4) (bs : Bytes) : Option (Instr × Bytes) :=
  match op.toNat with
  | 0 => (takeWord32 bs).bind fun (a, bs) => (takeByte bs).bind fun (t, bs) =>
      (takeBytes bs).bind fun (p, bs) => some (.encode a t p, bs)
  | 1 => (takeBytes bs).bind fun (r, bs) => (takeWord32 bs).bind fun (ea, bs) =>
      (takeByte bs).bind fun (et, bs) => some (.decode r ea et, bs)
  | 2 => (takeByte bs).bind fun (t, bs) => (takeBytes bs).bind fun (p, bs) => some (.checksum t p, bs)
  | 3 => (takeNat bs).bind fun (c, bs) => (takeWord32 bs).bind fun (a, bs) =>
      (takeNat bs).bind fun (tmo, bs) => some (.openChannel c a tmo, bs)
  | 4 => (takeBytes bs).bind fun (p, bs) => some (.sendCommand p, bs)
  | 5 => (takeByte bs).bind fun (et, bs) => (takeNat bs).bind fun (m, bs) => some (.receive et m, bs)
  | 6 => (takeBytes bs).bind fun (p, bs) => (takeNat bs).bind fun (e, bs) => some (.transfer p e, bs)
  | 7 => (takeWord32 bs).bind fun (a, bs) => some (.setAddress a, bs)
  | 8 => (takeNat bs).bind fun (n, bs) => (takeNat bs).bind fun (s, bs) => some (.download n s, bs)
  | 9 => (takeBytes bs).bind fun (b, bs) => (takeNat bs).bind fun (s, bs) => some (.upload b s, bs)
  | _ => none

/-- The operation selector: 4 bits (R83), the low half of a request's first byte. -/
def selectorOf (b : Byte) : BitVec 4 := b.extractLsb' 0 4

/-- Read one request (R83); a reserved selector is told apart from a request cut short (R84). -/
def decodeRequest : Bytes → Except DecodeError (Instr × Bytes)
  | [] => .error .empty
  | b :: bs =>
    if 10 ≤ (selectorOf b).toNat then .error (.badOp (selectorOf b))
    else
      match takeOperands (selectorOf b) bs with
      | some r => .ok r
      | none => .error .truncated

/-- The decoder: a byte string that starts with the first start-code byte is read as a frame, any other as a
request (no request byte string of `encode` starts with 0xEF). -/
def decode (bs : Bytes) : Except DecodeError (Instr × Bytes) :=
  match bs with
  | [] => .error .empty
  | b :: _ => if b = 0xEF then decodeFrame bs else decodeRequest bs

/-- The bytes of an instruction: R83's selectors and operand order, R70's frame. -/
def encode : Instr → Bytes
  | .encode a t p => 0x00 :: (be32 a ++ (t :: encodeBytes p))
  | .decode r ea et => 0x01 :: (encodeBytes r ++ (be32 ea ++ [et]))
  | .checksum t p => 0x02 :: t :: encodeBytes p
  | .openChannel c a tmo => 0x03 :: (encodeNat c ++ (be32 a ++ encodeNat tmo))
  | .sendCommand p => 0x04 :: encodeBytes p
  | .receive et m => 0x05 :: et :: encodeNat m
  | .transfer p e => 0x06 :: (encodeBytes p ++ encodeNat e)
  | .setAddress a => 0x07 :: be32 a
  | .download n s => 0x08 :: (encodeNat n ++ encodeNat s)
  | .upload b s => 0x09 :: (encodeBytes b ++ encodeNat s)
  | .frameCommand a len body => frameBytes a .command len body
  | .frameData a len body => frameBytes a .data len body
  | .frameAck a len body => frameBytes a .ack len body
  | .frameEndData a len body => frameBytes a .endData len body

/-! ### The table's numbering of bits -/

/-- `n` bytes of the number `w`, most significant first (R79: the header is one big-endian number). -/
def bigEndianBytes : Nat → Nat → Bytes
  | 0, _ => []
  | n + 1, w => BitVec.ofNat 8 (w / 256 ^ n) :: bigEndianBytes n w

/-- A row of the table with 72 bits is a frame header read as one number. -/
def isFrameWord (nbits : Nat) : Bool := 8 < nbits

/-- The byte string of a table row's number `w`: a selector and zero operands, or a frame header and as many zero
bytes as its length field counts. -/
def tableWordBytes (nbits w : Nat) : Bytes :=
  if isFrameWord nbits then
    bigEndianBytes (nbits / 8) w ++ List.replicate (w % 65536) 0
  else BitVec.ofNat 8 w :: List.replicate 6 0

/-- What the decoder reads from a table row's number. -/
def decodeTableWord (nbits w : Nat) : Option Instr :=
  match (if isFrameWord nbits then decodeFrame (tableWordBytes nbits w)
         else decodeRequest (tableWordBytes nbits w)) with
  | .ok (i, _) => some i
  | .error _ => none

end Sys2Proof
end

