-- ==== Sys2Proof/Machine/State.lean ====
section
/-! DEFINITION. The state of the block and of what the block touches (10_state.md R20 to R36), as plain data; the
reasons a step can stop; the state right after reset (R36, 70_reset_and_hazards.md R240). -/

namespace Sys2Proof.Machine

/-- TXPH (R30). -/
inductive TxPhase where
  | idle | sc | addr | type | len | pay | ck
deriving DecidableEq, Repr, Inhabited

/-- RXPH (R31). -/
inductive RxPhase where
  | idle | sc | addr | type | len | pay | ck | done | fail
deriving DecidableEq, Repr, Inhabited

/-- SEQ (R32). -/
inductive SeqPhase where
  | idle | dl | ul
deriving DecidableEq, Repr, Inhabited

/-- The transmit machine (R30). -/
structure TxMachine where
  /-- TXPH: the phase. -/
  txph : TxPhase
  /-- TXI: the byte index inside a multi-byte field. -/
  txi : BitVec 2
  /-- TXA: the latched address. -/
  txa : Word32
  /-- TXTYP: the latched packet-type code. -/
  txtyp : Byte
  /-- TXLEN: the length-field value. -/
  txlen : Word16
  /-- TXCNT: payload bytes already emitted. -/
  txcnt : Word16
deriving DecidableEq, Repr

/-- The receive machine (R31). -/
structure RxMachine where
  /-- RXPH: the phase. -/
  rxph : RxPhase
  /-- RXI: the byte index inside a multi-byte field. -/
  rxi : BitVec 2
  /-- SHIFT: collects a multi-byte field, most significant byte first. -/
  shift : Word32
  /-- EA: the latched expected address. -/
  ea : Word32
  /-- ET: the latched expected packet-type code. -/
  et : Byte
  /-- RXLEN: the received length field. -/
  rxlen : Word16
  /-- RXCNT: payload bytes already received. -/
  rxcnt : Word16
  /-- GOT: a byte of the current read has been consumed. -/
  got : Bool
  /-- RXERR: the code of the first validation failure. -/
  rxerr : BitVec 4
deriving DecidableEq, Repr

/-- The bulk-transfer sequencer (R32); IDX, CNTN and POS have widths the spec leaves open (00_scope.md R8). -/
structure Sequencer where
  /-- SEQ: idle, download or upload in progress. -/
  seq : SeqPhase
  /-- IDX: the index of the packet being received or sent. -/
  idx : Nat
  /-- CNTN: the number of packets of the transfer. -/
  cntn : Nat
  /-- PKTSZ: the latched packet size. -/
  pktsz : Word16
  /-- POS: the buffer offset of an upload's next chunk. -/
  pos : Nat
deriving DecidableEq, Repr

/-- One call of a channel primitive, as the model's trace records it (log entry 16). -/
inductive ChanCall where
  | openChannel (id : Nat)
  | flushInput
  | flushOutput
  | write (offered : Bytes)
  | read (max : Nat) (timeout : Nat)
deriving DecidableEq, Repr

/-- The channel as far as the rules speak of it (R34, R35; 42_transport_session.md R150 to R153, R163). -/
structure Channel where
  /-- Input that has arrived and no read has taken yet (R34). -/
  pending : Bytes
  /-- The caller has closed the channel from outside (R25, 70_reset_and_hazards.md R256). -/
  closed : Bool
  /-- The MODEL's: the environment's parts of the next calls; where it is empty `Config.chanEvent` answers
  (log entry 4). -/
  script : List ChanEvent
  /-- The MODEL's: how many answers `Config.chanEvent` has given (log entry 4). -/
  draws : Nat
  /-- TXLOG, which is LINK_TX: every byte a write accepted (R35, R150). -/
  txlog : Bytes
  /-- The bytes of every read, which is LINK_RX (R35, 20_memory.md R50). -/
  rxlog : Bytes
  /-- The MODEL's: the calls made, in order (log entry 16). -/
  calls : List ChanCall
deriving DecidableEq, Repr

/-- What comes to the block from outside between two operations (70_reset_and_hazards.md R260; log entry 1). -/
inductive Input where
  /-- The host issues a request (its byte form: log entry 2). -/
  | request (msg : Bytes)
  /-- Bytes arrive on the link. -/
  | link (bs : Bytes)
  /-- The host closes the channel from outside the block (R260 c). -/
  | closeChannel
  /-- The host resets the block (R241, R260 d). -/
  | reset
deriving DecidableEq, Repr

structure State where
  /-- ADDR: the session's device address (R23). -/
  addr : Word32
  /-- TIMEOUT: the session's read timeout, opaque (R24). -/
  timeout : Nat
  /-- OPENED: a session is open (R25). -/
  opened : Bool
  /-- ERR: the code of the last operation's error (R26). -/
  err : BitVec 4
  /-- REF: the code of the last request's refusal (R27). -/
  ref : BitVec 4
  /-- BUSY: an operation is in progress (R28). -/
  busy : Bool
  /-- CSUM: the checksum accumulator (R29). -/
  csum : Word16
  /-- The transmit machine (R30). -/
  tx : TxMachine
  /-- The receive machine (R31). -/
  rx : RxMachine
  /-- The sequencer (R32). -/
  sq : Sequencer
  /-- TXPAY: the payload of the frame being encoded (R33). -/
  txpay : Bytes
  /-- RAW: the bytes of one read (R33). -/
  raw : Bytes
  /-- RXPAY: the payload of the frame being decoded (R33). -/
  rxpay : Bytes
  /-- BULK: the logical payload of a bulk transfer (R33). -/
  bulk : Bytes
  /-- FRAME: the frame the encoder produced (R33). -/
  frame : Bytes
  /-- The channel and what is known of it. -/
  chan : Channel
  /-- The MODEL's: the last result delivered to the host (30_encoding.md R85; log entry 16). -/
  result : Option OpResult
  /-- The MODEL's: what the host and the link offer next (log entry 1). -/
  inputs : List Input
deriving DecidableEq, Repr

/-- Reasons the machine stops with a fault: none. Every error of the spec is a result, and "None is treated as
`stuck`" (93_implementation_defined.md; 60_exceptions.md R228). -/
inductive Fault where
deriving DecidableEq, Repr

/-- Reasons a step is not taken. -/
inductive Refusal where
  /-- Raised by `exec` for an instruction without a meaning; no instruction is left without one. Safe. -/
  | notModelled (mnemonic : String)
  /-- Raised by `step` for a request message that is the byte form of no request: it is empty or cut short (log
  entry 2). Safe: the spec knows no such request (R83). -/
  | notARequest (why : DecodeError)
deriving DecidableEq, Repr

/-- Right after reset. R240 gives OPENED, BUSY, ERR, REF, TXPH, RXPH, GOT, RXERR, SEQ; R33 the buffers ("empty in a
model"); every other value is a DESIGN CHOICE of log entry 8. -/
def State.reset : State where
  addr := 0
  timeout := 0
  opened := false
  err := 0
  ref := 0
  busy := false
  csum := 0
  tx := { txph := .idle, txi := 0, txa := 0, txtyp := 0, txlen := 0, txcnt := 0 }
  rx := { rxph := .idle, rxi := 0, shift := 0, ea := 0, et := 0, rxlen := 0, rxcnt := 0, got := false, rxerr := 0 }
  sq := { seq := .idle, idx := 0, cntn := 0, pktsz := 0, pos := 0 }
  txpay := []
  raw := []
  rxpay := []
  bulk := []
  frame := []
  chan := { pending := [], closed := false, script := [], draws := 0, txlog := [], rxlog := [], calls := [] }
  result := none
  inputs := []

end Sys2Proof.Machine
end

