-- ==== Sys2Proof/Machine/Flags.lean ====
section
/-! DEFINITION. Everything the block computes as a flag: the codes ERR, REF and RXERR hold (60_exceptions.md R211,
R223) and the checksum accumulator (41_checksum.md R141; no carry or overflow flag exists, 10_state.md R29). -/

namespace Sys2Proof.Machine

/-- R211: the code of an error kind. -/
def errCode : ErrorKind → BitVec 4
  | .connectionError => 1
  | .writeError => 2
  | .emptyRead => 3
  | .headerMismatch => 4
  | .addressMismatch => 5
  | .typeMismatch => 6
  | .checksumMismatch => 7
  | .shortTransfer => 8
  | .statusError => 9

/-- R211, read the other way: "raise the error whose code is in `RXERR`" (40_frame_codec.md R125). A code that RXERR
never holds stands for a free kind (log entry 12). -/
def errKind (c : BitVec 4) : ErrorKind :=
  match c.toNat with
  | 1 => .connectionError
  | 2 => .writeError
  | 3 => .emptyRead
  | 4 => .headerMismatch
  | 5 => .addressMismatch
  | 6 => .typeMismatch
  | 7 => .checksumMismatch
  | 8 => .shortTransfer
  | 9 => .statusError
  | _ => Config.reservedKind c

/-- R223: the code of a refusal reason. -/
def refCode : RefuseReason → BitVec 4
  | .notOpen => 1
  | .alreadyOpen => 2
  | .badType => 3
  | .badLength => 4
  | .badCount => 5
  | .badPacketSize => 6
  | .emptyBuffer => 7
  | .busy => 8
  | .badOp => 9

/-- `add16(a, zext_16(b))` (00_scope.md R9): one accumulation step (41_checksum.md R141). -/
def addByte (a : Word16) (b : Byte) : Word16 := a + b.setWidth 16

/-- R141 *clear*. -/
def csumClear (s : State) : State := { s with csum := 0 }

/-- R141 *accumulate*. -/
def csumAdd (b : Byte) (s : State) : State := { s with csum := addByte s.csum b }

/-- Accumulate a byte sequence, in order. -/
def csumAddAll : Bytes → State → State
  | [], s => s
  | b :: bs, s => csumAddAll bs (csumAdd b s)

end Sys2Proof.Machine
end

