-- ==== Sys2Proof/Machine/Operands.lean ====
section
/-! DEFINITION. The operand forms of the host operations (30_encoding.md R83) and their documented domains, which
decide the refusals (60_exceptions.md R222 to R224). -/

namespace Sys2Proof.Machine

/-- The most bytes a payload has (00_scope.md R7; 41_checksum.md R147). -/
def maxPayload : Nat := 65533

/-- The bytes of a frame that are not payload: 9 header, 2 checksum (R7). -/
def frameOverhead : Nat := 11

/-- R223 BadType: "a packet-type operand is not 0x01, 0x02, 0x07 or 0x08". -/
def badType (c : Byte) : Bool := (PacketType.ofCode? c).isNone

/-- R223 BadLength: "a payload operand is longer than 65533 bytes". -/
def badLength (p : Bytes) : Bool := decide (maxPayload < p.length)

/-- R223 BadCount: `N = 0`. -/
def badCount (n : Nat) : Bool := n == 0

/-- R223 BadPacketSize: `S = 0` or `S > 65533`. -/
def badPacketSize (size : Nat) : Bool := size == 0 || decide (maxPayload < size)

/-- R223 EmptyBuffer: "the upload buffer has 0 bytes". -/
def emptyBuffer (b : Bytes) : Bool := b.isEmpty

/-- R224: "the one reported is the first in this order"; each operation lists its conditions in that order. -/
def firstRefusal : List (Bool × RefuseReason) → Option RefuseReason
  | [] => none
  | (true, r) :: _ => some r
  | (false, _) :: rest => firstRefusal rest

/-- Why the block refuses the request `i` in a state with these BUSY, OPENED and SEQ (R222: "decided from the request
and from `OPENED`, `BUSY`, `SEQ` alone"), in the order of R224. A bulk operation is accepted only in Q_IDLE
(43_bulk_transfer.md R184; log entry 13). A frame is no request and is never refused. -/
def refusalOf (busy opened : Bool) (seq : SeqPhase) : Instr → Option RefuseReason
  | .encode _ t p => firstRefusal [(busy, .busy), (badType t, .badType), (badLength p, .badLength)]
  | .decode _ _ et => firstRefusal [(busy, .busy), (badType et, .badType)]
  | .checksum t p => firstRefusal [(busy, .busy), (badType t, .badType), (badLength p, .badLength)]
  | .openChannel _ _ _ => firstRefusal [(busy, .busy), (opened, .alreadyOpen)]
  | .sendCommand p => firstRefusal [(busy, .busy), (!opened, .notOpen), (badLength p, .badLength)]
  | .receive et _ => firstRefusal [(busy, .busy), (!opened, .notOpen), (badType et, .badType)]
  | .transfer p _ => firstRefusal [(busy, .busy), (!opened, .notOpen), (badLength p, .badLength)]
  | .setAddress _ => firstRefusal [(busy, .busy), (!opened, .notOpen)]
  | .download n size =>
    firstRefusal [(busy || seq != .idle, .busy), (!opened, .notOpen), (badCount n, .badCount),
      (badPacketSize size, .badPacketSize)]
  | .upload b size =>
    firstRefusal [(busy || seq != .idle, .busy), (!opened, .notOpen), (badPacketSize size, .badPacketSize),
      (emptyBuffer b, .emptyBuffer)]
  | .frameCommand _ _ _ => none
  | .frameData _ _ _ => none
  | .frameAck _ _ _ => none
  | .frameEndData _ _ _ => none

/-- `ceil(a / b)` (00_scope.md R9). -/
def ceilDiv (a b : Nat) : Nat := (a + b - 1) / b

end Sys2Proof.Machine
end

