-- ==== Sys2Proof/Machine/Ops.lean ====
section
/-! DEFINITION. The operations every meaning is made of: reading a byte space (20_memory.md R51), the five channel
primitives (42_transport_session.md R150 to R153, R163), and the beginning and the end of an operation, with the
error as ONE shared operation (60_exceptions.md R216). There is no return from an error (R218). -/

namespace Sys2Proof.Machine

/-! ### Byte spaces -/

/-- `MemRead(space, off, n)` (R51), "defined only when `off + n` does not exceed the length of the space": the bytes
inside the space, and a free value for each offset outside it, which no rule reads (log entry 12). -/
def memRead (space : Bytes) (off n : Nat) : Bytes :=
  (space.drop off).take n ++
    (List.range' (max off space.length) (off + n - max off space.length)).map Config.outsideSpace

/-- `MemRead(space, off, 1)` as one byte; outside the space a free value, which no rule reads (log entry 12). -/
def memReadByte (space : Bytes) (off : Nat) : Byte :=
  match space[off]? with
  | some b => b
  | none => Config.outsideSpace off

/-! ### The channel -/

/-- The environment's part of the next channel call: the script's next entry, or a free value (log entry 4). -/
def nextEvent (c : Channel) : ChanEvent :=
  match c.script with
  | e :: _ => e
  | [] => Config.chanEvent c.draws

/-- That part is used up. -/
def takeEvent (c : Channel) : Channel :=
  match c.script with
  | _ :: es => { c with script := es }
  | [] => { c with draws := c.draws + 1 }

/-- What happens on the link before a call is answered: bytes arrive behind those already pending (R34, R151), and
the caller may have closed the channel (R256). -/
def meetEvent (c : Channel) : Channel :=
  { takeEvent c with
    pending := c.pending ++ (nextEvent c).arrive
    closed := c.closed || (nextEvent c).closes }

/-- The answer of ChanWrite (R150): how many bytes of `bs` it accepts, at most all; on a channel closed from outside
"every write is short" (R256). -/
def writeCount (bs : Bytes) (c : Channel) : Nat :=
  if (meetEvent c).closed then min (nextEvent c).accepts (bs.length - 1)
  else min (nextEvent c).accepts bs.length

/-- ChanWrite (R150): the accepted bytes are the first ones, in order. -/
def chanWrite (bs : Bytes) (c : Channel) : Channel :=
  { meetEvent c with
    txlog := c.txlog ++ bs.take (writeCount bs c)
    calls := c.calls ++ [.write bs] }

/-- The answer of ChanRead (R151): the oldest pending bytes, at most `max`, and no more than the environment gives
before the timeout elapses (log entry 5); none stands for `Closed`, which only a
channel closed from outside answers, and which answers that or nothing (R256, 92 D16). -/
def readAnswer (max : Nat) (c : Channel) : Option Bytes :=
  if (meetEvent c).closed then
    if (nextEvent c).saysClosed then none else some []
  else some ((meetEvent c).pending.take (min max (nextEvent c).gives))

/-- ChanRead (R151, 20_memory.md R57): "The returned bytes are removed from the pending input". -/
def chanRead (max timeout : Nat) (c : Channel) : Channel :=
  { meetEvent c with
    pending := if (meetEvent c).closed then (meetEvent c).pending else (meetEvent c).pending.drop (min max (nextEvent c).gives)
    rxlog := c.rxlog ++ (readAnswer max c).getD []
    calls := c.calls ++ [.read max timeout] }

/-- ChanFlushInput (R152): every byte pending before the answer is discarded. -/
def chanFlushInput (c : Channel) : Channel :=
  { meetEvent c with pending := [], calls := c.calls ++ [.flushInput] }

/-- ChanFlushOutput (R153): what it does to pending output is the channel's and no rule depends on it (R61). -/
def chanFlushOutput (c : Channel) : Channel :=
  { meetEvent c with calls := c.calls ++ [.flushOutput] }

/-- The answer of ChanOpen (R163). -/
def openAnswer (c : Channel) : Bool := (nextEvent c).opens

/-- ChanOpen (R163): when it succeeds a stream is established, with what the environment says is pending in it (log
entry 6); an opened channel is not closed (R256: "only reset and a new OPEN recover"). -/
def chanOpen (id : Nat) (c : Channel) : Channel :=
  if openAnswer c then
    { takeEvent c with
      pending := (if (nextEvent c).keeps then c.pending else []) ++ (nextEvent c).arrive
      closed := false
      calls := c.calls ++ [.openChannel id] }
  else { takeEvent c with calls := c.calls ++ [.openChannel id] }

/-- Bytes arrive on the link between two operations; they "wait in the channel until a read takes them" (R220). -/
def arrive (bs : Bytes) (s : State) : State :=
  { s with chan := { s.chan with pending := s.chan.pending ++ bs } }

/-- The caller closes the channel from outside between two operations (R256, R260 c). It "does not clear
`OPENED`" (R25). -/
def closeChannel (s : State) : State := { s with chan := { s.chan with closed := true } }

/-! ### Beginning and end of an operation -/

/-- Acceptance (R27, R28): REF is cleared and BUSY is set. -/
def accept (s : State) : State := { s with busy := true, ref := 0 }

/-- A refused request (R222): REF holds the reason's code, ERR is cleared, nothing else of the block changes; the
result `Refused(reason)` is delivered (R85; log entry 16). -/
def refuse (r : RefuseReason) (s : State) : State :=
  { s with ref := refCode r, err := 0, result := some (.refused r) }

/-- The machines and the sequencer are idle (R216, R259). -/
def idleMachines (s : State) : State :=
  { s with
    tx := { s.tx with txph := .idle }
    rx := { s.rx with rxph := .idle }
    sq := { s.sq with seq := .idle } }

/-- The end of an operation that returns `Ok(v)` (R259): ERR is 0, BUSY is 0, the result is delivered. -/
def succeed (v : OpValue) (s : State) : State :=
  { idleMachines s with busy := false, err := 0, result := some (.ok v) }

/-- TAKING AN ERROR (R216): "the codec machines and the sequencer return to their idle states, `ERR <-` the code,
`BUSY <- 0`, and the result `Error(kind)` is delivered". Nothing else changes (R217). -/
def raise (k : ErrorKind) (s : State) : State :=
  { idleMachines s with busy := false, err := errCode k, result := some (.error k) }

/-- The end of an operation; none: it has not ended (which no operation started from a request leaves). -/
def conclude : Option (Except ErrorKind OpValue) → State → State
  | some (.ok v), s => succeed v s
  | some (.error k), s => raise k s
  | none, s => s

/-- A host operation (R222, R224, R259): refused, or accepted, run to its end, and ended. -/
def runOperation (i : Instr) (body : State → State × Option (Except ErrorKind OpValue)) (s : State) : State :=
  match refusalOf s.busy s.opened s.sq.seq i with
  | some r => refuse r s
  | none => conclude (body (accept s)).2 (body (accept s)).1

/-- What the host may read (R260 b): ERR, REF, BUSY. -/
def hostView (s : State) : BitVec 4 × BitVec 4 × Bool := (s.err, s.ref, s.busy)

/-- R241: a reset, also in the middle of an operation: the block is as after reset, without a result; what the
channel has accepted and what is pending in it stay (log entry 9). -/
def hostReset (s : State) : State := { State.reset with chan := s.chan, inputs := s.inputs }

/-- The settle delay of TRANSFER (20_memory.md R62): "a step with no effect" in a model without time. -/
def settle (_delay : Nat) (s : State) : State := s

end Sys2Proof.Machine
end

