-- ==== Sys2Proof/Machine/Codec.lean ====
section
/-! DEFINITION. The transaction level of the codec (00_scope.md R6: the source's own level): the checksum function
(41_checksum.md R140), the wire form of a frame (40_frame_codec.md R100), the validation of a received buffer (R101),
and how a bulk buffer is cut into frames (43_bulk_transfer.md R182, R193). Pure functions of their operands. -/

namespace Sys2Proof.Machine

/-- The length field `LEN = len(payload) + 2`, 16 bits (30_encoding.md R75). -/
def lenField (p : Bytes) : Word16 := BitVec.ofNat 16 (p.length + 2)

/-- The sum of the bytes of a sequence, as a natural number. -/
def byteSum (bs : Bytes) : Nat := (bs.map BitVec.toNat).sum

/-- R140: `s = LEN[15:8] + LEN[7:0] + T + P[0] + ... + P[n-1]`, reduced modulo 65536. -/
def checksumOf (t : Byte) (p : Bytes) : Word16 :=
  BitVec.ofNat 16 (byteSum (be16 (lenField p)) + t.toNat + byteSum p)

/-- R100, and by R108 what the transmit machine emits: `[0xEF, 0x01] ++ be32(A) ++ [T] ++ be16(LEN) ++ P ++ be16(CK)`. -/
def wireFrame (a : Word32) (t : Byte) (p : Bytes) : Bytes :=
  frameHeader a t (lenField p) ++ p ++ be16 (checksumOf t p)

/-- The payload of a received buffer whose length field says `n` payload bytes (R101 step 9 and 10). -/
def payloadOf (raw : Bytes) (n : Nat) : Bytes := (raw.drop 9).take n

/-- R101, DECODE: the steps in their order, the first that fails decides; by R108 the outcome of the receive machine. -/
def validate (raw : Bytes) (ea : Word32) (et : Byte) : Except ErrorKind Bytes :=
  let at_ (i : Nat) : Byte := memReadByte raw i
  let len := (fromBe16 (at_ 7) (at_ 8)).toNat
  let n := len - 2
  if raw.length = 0 then .error .emptyRead                                              -- step 1
  else if raw.length < 2 then .error .headerMismatch                                    -- step 2
  else if at_ 0 ≠ 0xEF ∨ at_ 1 ≠ 0x01 then .error .headerMismatch                       -- step 3
  else if raw.length < 6 then .error .headerMismatch                                    -- step 4
  else if fromBe32 (at_ 2) (at_ 3) (at_ 4) (at_ 5) ≠ ea then .error .addressMismatch    -- step 5
  else if raw.length < 7 then .error .headerMismatch                                    -- step 6
  else if at_ 6 ≠ et then .error .typeMismatch
  else if raw.length < 9 then .error .headerMismatch                                    -- step 7
  else if len < 2 then .error .headerMismatch                                           -- step 8
  else if raw.length < n + 11 then .error .headerMismatch                               -- step 9
  else if fromBe16 (at_ (9 + n)) (at_ (10 + n)) ≠ checksumOf (at_ 6) (payloadOf raw n) then
    .error .checksumMismatch                                                            -- step 10
  else .ok (payloadOf raw n)                                                            -- step 11

/-- R182, R193: a buffer cut at multiples of `size`, for at most `fuel` chunks. -/
def chunksFuel : Nat → Nat → Bytes → List Bytes
  | 0, _, _ => []
  | fuel + 1, size, b =>
    if b.isEmpty then [] else b.take size :: chunksFuel fuel size (b.drop size)

/-- R193: the `ceil(m / S)` chunks of a buffer of `m` bytes. -/
def chunks (size : Nat) (b : Bytes) : List Bytes := chunksFuel (ceilDiv b.length size) size b

/-- R180: the frames of a bulk transfer, Data frames closed by exactly one EndData frame, told by position. -/
def bulkFrames (a : Word32) : List Bytes → List Bytes
  | [] => []
  | [p] => [wireFrame a PacketType.endData.code p]
  | p :: ps => wireFrame a PacketType.data.code p :: bulkFrames a ps

end Sys2Proof.Machine
end

