-- ==== Sys2Proof/Machine/Receive.lean ====
section
/-! DEFINITION. The receive machine (40_frame_codec.md R117 to R125): one byte a step, then the end of the read. -/

namespace Sys2Proof.Machine

/-- R117. -/
def rxStart (ea : Word32) (et : Byte) (s : State) : State :=
  { csumClear s with
    rx := { s.rx with rxph := .sc, rxi := 0, ea := ea, et := et, rxcnt := 0, got := false, rxerr := 0 }
    rxpay := [] }

/-- `SHIFT <- (SHIFT << 8 | b) mod 2^32` (10_state.md R31). -/
def shiftIn (sh : Word32) (b : Byte) : Word32 := sh <<< 8 ||| b.setWidth 32

/-- `fail(k)` (R117): `RXERR <- code of k; RXPH <- R_FAIL`. -/
def rxFail (k : ErrorKind) (m : RxMachine) : RxMachine := { m with rxerr := errCode k, rxph := .fail }

/-- The machine after one byte (R118 to R124); `cs` is CSUM as it stands before the byte. -/
def rxNext (cs : Word16) (b : Byte) (m0 : RxMachine) : RxMachine :=
  let m := { m0 with got := true }
  let sh := shiftIn m.shift b
  match m.rxph with
  | .idle => m0
  | .sc =>
    if m.rxi = 0 then { m with shift := sh, rxi := 1 }
    else if sh.extractLsb' 0 16 ≠ 0xEF01 then rxFail .headerMismatch { m with shift := sh, rxi := 0 }
    else { m with shift := sh, rxi := 0, rxph := .addr }
  | .addr =>
    if m.rxi.toNat < 3 then { m with shift := sh, rxi := m.rxi + 1 }
    else if sh ≠ m.ea then rxFail .addressMismatch { m with shift := sh, rxi := 0 }
    else { m with shift := sh, rxi := 0, rxph := .type }
  | .type =>
    if b ≠ m.et then rxFail .typeMismatch m
    else { m with rxi := 0, rxph := .len }
  | .len =>
    if m.rxi = 0 then { m with shift := sh, rxi := 1 }
    else if (sh.extractLsb' 0 16).toNat < 2 then
      rxFail .headerMismatch { m with shift := sh, rxi := 0, rxlen := sh.extractLsb' 0 16 }
    else if sh.extractLsb' 0 16 = 2 then { m with shift := sh, rxi := 0, rxlen := sh.extractLsb' 0 16, rxph := .ck }
    else { m with shift := sh, rxi := 0, rxlen := sh.extractLsb' 0 16, rxcnt := 0, rxph := .pay }
  | .pay =>
    if m.rxcnt + 1 = m.rxlen - 2 then { m with rxcnt := m.rxcnt + 1, rxi := 0, rxph := .ck }
    else { m with rxcnt := m.rxcnt + 1 }
  | .ck =>
    if m.rxi = 0 then { m with shift := sh, rxi := 1 }
    else if sh.extractLsb' 0 16 ≠ cs then rxFail .checksumMismatch { m with shift := sh, rxi := 0 }
    else { m with shift := sh, rxi := 0, rxph := .done }
  | .done => m
  | .fail => m

/-- The byte is added to CSUM: a right type byte (R120), the length bytes (R121), the payload (R122). -/
def rxCovered (m : RxMachine) (b : Byte) : Bool :=
  match m.rxph with
  | .type => b == m.et
  | .len => true
  | .pay => true
  | .idle => false
  | .sc => false
  | .addr => false
  | .ck => false
  | .done => false
  | .fail => false

/-- One byte. In R_IDLE the machine takes none. -/
def rxStep (b : Byte) (s : State) : State :=
  { s with
    rx := rxNext s.csum b s.rx
    csum := if rxCovered s.rx b then addByte s.csum b else s.csum
    rxpay := if s.rx.rxph = .pay then s.rxpay ++ [b] else s.rxpay }

/-- The bytes of one read, in order. -/
def rxFeed : Bytes → State → State
  | [], s => s
  | b :: bs, s => rxFeed bs (rxStep b s)

/-- R125: the outcome at the end of the read. -/
def rxOutcome (s : State) : Except ErrorKind Bytes :=
  if s.rx.got = false then .error .emptyRead
  else
    match s.rx.rxph with
    | .fail => .error (errKind s.rx.rxerr)
    | .done => .ok s.rxpay
    | .idle => .error .headerMismatch
    | .sc => .error .headerMismatch
    | .addr => .error .headerMismatch
    | .type => .error .headerMismatch
    | .len => .error .headerMismatch
    | .pay => .error .headerMismatch
    | .ck => .error .headerMismatch

/-- R125: "In every case `RXPH <- R_IDLE`. On any raise `RXPAY` is discarded." -/
def rxEnd (s : State) : State :=
  { s with
    rx := { s.rx with rxph := .idle }
    rxpay := match rxOutcome s with
      | .ok p => p
      | .error _ => [] }

/-- The machine given the bytes of `raw` (R117), before the end of the read. -/
def rxRead (raw : Bytes) (ea : Word32) (et : Byte) (s : State) : State :=
  rxFeed raw (rxStart ea et { s with raw := raw })

/-- A received buffer through the receive machine: the state it leaves. -/
def decodeBuffer (raw : Bytes) (ea : Word32) (et : Byte) (s : State) : State := rxEnd (rxRead raw ea et s)

/-- A received buffer through the receive machine: the outcome it reports, which is `validate raw ea et`, the transaction
level's DECODE (R108). -/
def decodeOutcome (raw : Bytes) (ea : Word32) (et : Byte) (s : State) : Except ErrorKind Bytes :=
  rxOutcome (rxRead raw ea et s)

end Sys2Proof.Machine
end

