-- ==== Sys2Proof/Machine/Transmit.lean ====
section
/-! DEFINITION. The transmit machine (40_frame_codec.md R110 to R116): one byte a step. -/

namespace Sys2Proof.Machine

/-- R110. FRAME starts empty: the machine appends every byte of the frame to it (log entry 10). -/
def txStart (a : Word32) (t : Byte) (p : Bytes) (s : State) : State :=
  { csumClear s with
    tx := { txph := .sc, txi := 0, txa := a, txtyp := t, txlen := lenField p, txcnt := 0 }
    txpay := p
    frame := [] }

/-- The byte `b` a step emits, by phase (R111 to R116). -/
def txByte (s : State) : Byte :=
  match s.tx.txph with
  | .idle => 0
  | .sc => if s.tx.txi = 0 then 0xEF else 0x01
  | .addr => s.tx.txa.extractLsb' (24 - 8 * s.tx.txi.toNat) 8
  | .type => s.tx.txtyp
  | .len => if s.tx.txi = 0 then s.tx.txlen.extractLsb' 8 8 else s.tx.txlen.extractLsb' 0 8
  | .pay => memReadByte s.txpay s.tx.txcnt.toNat
  | .ck => if s.tx.txi = 0 then s.csum.extractLsb' 8 8 else s.csum.extractLsb' 0 8

/-- The next phase, sub-index and count (R111 to R116). -/
def txNext (m : TxMachine) : TxMachine :=
  match m.txph with
  | .idle => m
  | .sc => if m.txi = 0 then { m with txi := 1 } else { m with txi := 0, txph := .addr }
  | .addr => if m.txi.toNat < 3 then { m with txi := m.txi + 1 } else { m with txi := 0, txph := .type }
  | .type => { m with txi := 0, txph := .len }
  | .len =>
    if m.txi = 0 then { m with txi := 1 }
    else if m.txlen = 2 then { m with txi := 0, txph := .ck }
    else { m with txi := 0, txph := .pay }
  | .pay =>
    if m.txcnt + 1 = m.txlen - 2 then { m with txcnt := m.txcnt + 1, txph := .ck }
    else { m with txcnt := m.txcnt + 1 }
  | .ck => if m.txi = 0 then { m with txi := 1 } else { m with txi := 0, txph := .idle }

/-- The checksum covers the type byte, the length bytes and the payload, and nothing else (R141). -/
def txCovered : TxPhase → Bool
  | .type => true
  | .len => true
  | .pay => true
  | .idle => false
  | .sc => false
  | .addr => false
  | .ck => false

/-- One step: emit a byte, accumulate it if it is covered, move on. In T_IDLE there is no step. -/
def txStep (s : State) : State :=
  if s.tx.txph = .idle then s
  else
    { s with
      frame := s.frame ++ [txByte s]
      csum := if txCovered s.tx.txph then addByte s.csum (txByte s) else s.csum
      tx := txNext s.tx }

/-- `k` steps. -/
def txRun : Nat → State → State
  | 0, s => s
  | k + 1, s => txRun k (txStep s)

/-- R110: "The machine then takes `n + 11` steps"; FRAME is then `wireFrame a t p`, the transaction level's ENCODE (R108). -/
def encodeFrame (a : Word32) (t : Byte) (p : Bytes) (s : State) : State :=
  txRun (p.length + frameOverhead) (txStart a t p s)

end Sys2Proof.Machine
end

