-- ==== Sys2Proof/Machine/CodecOps.lean ====
section
/-! DEFINITION. The meanings of ENCODE (40_frame_codec.md R100), DECODE (R101) and CHECKSUM (41_checksum.md R140).
They use no channel primitive and no session register. -/

namespace Sys2Proof.Machine

/-- A codec outcome as the end of an operation that returns a byte sequence. -/
def bytesResult : Except ErrorKind Bytes → Option (Except ErrorKind OpValue)
  | .ok p => some (.ok (.bytes p))
  | .error k => some (.error k)

/-- R100: the transmit machine builds the frame in FRAME, which is the result. -/
def encodeBody (a : Word32) (t : Byte) (p : Bytes) (s : State) : State × Option (Except ErrorKind OpValue) :=
  (encodeFrame a t p s, some (.ok (.bytes (encodeFrame a t p s).frame)))

/-- R101: the receive machine validates the operand. -/
def decodeBody (raw : Bytes) (ea : Word32) (et : Byte) (s : State) : State × Option (Except ErrorKind OpValue) :=
  (decodeBuffer raw ea et s, bytesResult (decodeOutcome raw ea et s))

/-- R140, R141: the accumulator takes the type, the length bytes and the payload, and holds the result. -/
def accumulate (t : Byte) (p : Bytes) (s : State) : State :=
  csumAddAll p (csumAddAll (be16 (lenField p)) (csumAdd t (csumClear s)))

def checksumBody (t : Byte) (p : Bytes) (s : State) : State × Option (Except ErrorKind OpValue) :=
  (accumulate t p s, some (.ok (.word (accumulate t p s).csum)))

/-- ENCODE, R100. -/
def execEncode (a : Word32) (t : Byte) (p : Bytes) (s : State) : Host.Outcome State Fault Refusal :=
  .next (runOperation (.encode a t p) (encodeBody a t p) s)

/-- DECODE, R101. -/
def execDecode (raw : Bytes) (ea : Word32) (et : Byte) (s : State) : Host.Outcome State Fault Refusal :=
  .next (runOperation (.decode raw ea et) (decodeBody raw ea et) s)

/-- CHECKSUM, R140. -/
def execChecksum (t : Byte) (p : Bytes) (s : State) : Host.Outcome State Fault Refusal :=
  .next (runOperation (.checksum t p) (checksumBody t p) s)

end Sys2Proof.Machine
end

