-- ==== Sys2Proof/Machine/Session.lean ====
section
/-! DEFINITION. The meanings of the session operations (42_transport_session.md R154 to R158). -/

namespace Sys2Proof.Machine

/-- What an operation without a value returns. -/
def unitResult : Except ErrorKind Unit → Option (Except ErrorKind OpValue)
  | .ok _ => some (.ok .unit)
  | .error k => some (.error k)

/-- R154: on success ADDR, TIMEOUT and OPENED are written, on failure no register. -/
def openBody (chan : Nat) (a : Word32) (timeout : Nat) (s : State) :
    State × Option (Except ErrorKind OpValue) :=
  if openAnswer s.chan then
    ({ s with chan := chanOpen chan s.chan, addr := a, timeout := timeout, opened := true }, some (.ok .unit))
  else ({ s with chan := chanOpen chan s.chan }, some (.error .connectionError))

/-- One frame encoded under ADDR and handed to ChanWrite in one call (R155, 20_memory.md R56). -/
def sendFrame (t : Byte) (p : Bytes) (s : State) : State :=
  { encodeFrame s.addr t p s with chan := chanWrite (encodeFrame s.addr t p s).frame s.chan }

/-- R150, R155: accepting fewer bytes than the frame has is a WriteError. -/
def sendOutcome (t : Byte) (p : Bytes) (s : State) : Except ErrorKind Unit :=
  if writeCount (encodeFrame s.addr t p s).frame s.chan < p.length + frameOverhead then .error .writeError
  else .ok ()

def sendCommandBody (p : Bytes) (s : State) : State × Option (Except ErrorKind OpValue) :=
  (sendFrame PacketType.command.code p s, unitResult (sendOutcome PacketType.command.code p s))

/-- R156: exactly one read; when it answers bytes, they go through the receive machine. -/
def receiveFrame (et : Byte) (max : Nat) (s : State) : State :=
  match readAnswer max s.chan with
  | none => { s with chan := chanRead max s.timeout s.chan }
  | some bs => decodeBuffer bs s.addr et { s with chan := chanRead max s.timeout s.chan }

/-- R156: `Closed` is a ConnectionError, otherwise DECODE's outcome. -/
def receiveOutcome (et : Byte) (max : Nat) (s : State) : Except ErrorKind Bytes :=
  match readAnswer max s.chan with
  | none => .error .connectionError
  | some bs => decodeOutcome bs s.addr et { s with chan := chanRead max s.timeout s.chan }

def receiveBody (et : Byte) (max : Nat) (s : State) : State × Option (Except ErrorKind OpValue) :=
  (receiveFrame et max s, bytesResult (receiveOutcome et max s))

/-- R157: flush input, flush output, settle. -/
def transferFlush (s : State) : State :=
  settle Config.settleDelay { s with chan := chanFlushOutput (chanFlushInput s.chan) }

/-- R157: "on WriteError stop here with that error"; else receive an Ack. -/
def transferExchange (p : Bytes) (elen : Nat) (s : State) : State × Option (Except ErrorKind OpValue) :=
  match sendOutcome PacketType.command.code p s with
  | .error k => (sendFrame PacketType.command.code p s, some (.error k))
  | .ok _ => receiveBody PacketType.ack.code elen (sendFrame PacketType.command.code p s)

def transferBody (p : Bytes) (elen : Nat) (s : State) : State × Option (Except ErrorKind OpValue) :=
  transferExchange p elen (transferFlush s)

/-- R158: one atomic 32-bit write. -/
def setAddressBody (a : Word32) (s : State) : State × Option (Except ErrorKind OpValue) :=
  ({ s with addr := a }, some (.ok .unit))

/-- OPEN, R154. -/
def execOpen (chan : Nat) (a : Word32) (timeout : Nat) (s : State) : Host.Outcome State Fault Refusal :=
  .next (runOperation (.openChannel chan a timeout) (openBody chan a timeout) s)

/-- SEND_COMMAND, R155. -/
def execSendCommand (p : Bytes) (s : State) : Host.Outcome State Fault Refusal :=
  .next (runOperation (.sendCommand p) (sendCommandBody p) s)

/-- RECEIVE, R156. -/
def execReceive (et : Byte) (max : Nat) (s : State) : Host.Outcome State Fault Refusal :=
  .next (runOperation (.receive et max) (receiveBody et max) s)

/-- TRANSFER, R157. -/
def execTransfer (p : Bytes) (elen : Nat) (s : State) : Host.Outcome State Fault Refusal :=
  .next (runOperation (.transfer p elen) (transferBody p elen) s)

/-- SET_ADDRESS, R158. -/
def execSetAddress (a : Word32) (s : State) : Host.Outcome State Fault Refusal :=
  .next (runOperation (.setAddress a) (setAddressBody a) s)

end Sys2Proof.Machine
end

