-- ==== Sys2Proof/Machine/Bulk.lean ====
section
/-! DEFINITION. The packet sequencer and the meanings of DOWNLOAD and UPLOAD (43_bulk_transfer.md R180 to R189). One
sequencer step handles one frame. -/

namespace Sys2Proof.Machine

/-- Frame IDX is the last of the transfer (R184, R186, R188): told by position (R180). -/
def isLast (q : Sequencer) : Bool := q.idx + 1 == q.cntn

/-- The packet type of frame IDX (R186, R188): Data, but EndData for the last. -/
def bulkType (q : Sequencer) : Byte := if isLast q then PacketType.endData.code else PacketType.data.code

/-- The transfer is over: SEQ <- Q_IDLE. -/
def seqIdle (s : State) : State := { s with sq := { s.sq with seq := .idle } }

/-- A failed download: `BULK <- []; SEQ <- Q_IDLE` (R186). -/
def dlAbort (s : State) : State := { seqIdle s with bulk := [] }

/-- R185: start of a download. -/
def dlStart (n size : Nat) (s : State) : State :=
  { s with
    sq := { s.sq with cntn := n, pktsz := BitVec.ofNat 16 size, idx := 0, seq := .dl }
    bulk := [] }

/-- R186: one download step; none: the machine stays in Q_DL. -/
def dlStep (s : State) : State × Option (Except ErrorKind OpValue) :=
  let r := receiveOutcome (bulkType s.sq) (s.sq.pktsz.toNat + frameOverhead) s
  let t := receiveFrame (bulkType s.sq) (s.sq.pktsz.toNat + frameOverhead) s
  match r with
  | .error e => (dlAbort t, some (.error e))
  | .ok p =>
    if isLast s.sq then (seqIdle { t with bulk := t.bulk ++ p }, some (.ok (.bytes (t.bulk ++ p))))
    else if p.length = 0 then (dlAbort t, some (.error .shortTransfer))
    else ({ t with bulk := t.bulk ++ p, sq := { t.sq with idx := t.sq.idx + 1 } }, none)

/-- Download steps until the transfer ends, at most `fuel` of them. -/
def dlRun : Nat → State → State × Option (Except ErrorKind OpValue)
  | 0, s => (s, none)
  | fuel + 1, s =>
    match dlStep s with
    | (t, some r) => (t, some r)
    | (t, none) => dlRun fuel t

/-- R181: `N` frames at most. -/
def downloadBody (n size : Nat) (s : State) : State × Option (Except ErrorKind OpValue) :=
  dlRun n (dlStart n size s)

/-- R187: start of an upload. -/
def ulStart (b : Bytes) (size : Nat) (s : State) : State :=
  { s with
    sq := { cntn := ceilDiv b.length size, pktsz := BitVec.ofNat 16 size, idx := 0, pos := 0, seq := .ul }
    bulk := b }

/-- R188: `k = min(PKTSZ, len(BULK) - POS)`. -/
def chunkLen (s : State) : Nat := min s.sq.pktsz.toNat (s.bulk.length - s.sq.pos)

/-- R188: `chunk = MemRead(BULK, POS, k)`. -/
def ulChunk (s : State) : Bytes := memRead s.bulk s.sq.pos (chunkLen s)

/-- R188: one upload step; none: the machine stays in Q_UL. -/
def ulStep (s : State) : State × Option (Except ErrorKind OpValue) :=
  let r := sendOutcome (bulkType s.sq) (ulChunk s) s
  let t := sendFrame (bulkType s.sq) (ulChunk s) s
  match r with
  | .error e => (seqIdle t, some (.error e))
  | .ok _ =>
    let u := { t with sq := { t.sq with pos := t.sq.pos + chunkLen s } }
    if isLast s.sq then (seqIdle u, some (.ok .unit))
    else ({ u with sq := { u.sq with idx := u.sq.idx + 1 } }, none)

/-- Upload steps until the transfer ends, at most `fuel` of them. -/
def ulRun : Nat → State → State × Option (Except ErrorKind OpValue)
  | 0, s => (s, none)
  | fuel + 1, s =>
    match ulStep s with
    | (t, some r) => (t, some r)
    | (t, none) => ulRun fuel t

/-- R182: `ceil(m / S)` frames at most. -/
def uploadBody (b : Bytes) (size : Nat) (s : State) : State × Option (Except ErrorKind OpValue) :=
  ulRun (ceilDiv b.length size) (ulStart b size s)

/-- DOWNLOAD, R181. -/
def execDownload (n size : Nat) (s : State) : Host.Outcome State Fault Refusal :=
  .next (runOperation (.download n size) (downloadBody n size) s)

/-- UPLOAD, R182. -/
def execUpload (b : Bytes) (size : Nat) (s : State) : Host.Outcome State Fault Refusal :=
  .next (runOperation (.upload b size) (uploadBody b size) s)

end Sys2Proof.Machine
end

