-- ==== Sys2Proof/Machine/Frames.lean ====
section
/-! DEFINITION. The meanings of the four frame rows of the table (40_frame_codec.md R102 to R105). A frame on the
link acts on the block only through a read: "bytes wait in the channel until a read takes them"
(60_exceptions.md R220; 10_state.md R34), so a frame that comes in joins the pending input behind what is there, and
RECEIVE, TRANSFER and DOWNLOAD take it from there (log entry 3). The frames the block sends are made by
SEND_COMMAND, TRANSFER and UPLOAD. -/

namespace Sys2Proof.Machine

/-- FRAME.COMMAND, R102. -/
def execFrameCommand (a : Word32) (len : Word16) (body : Bytes) (s : State) : Host.Outcome State Fault Refusal :=
  .next (arrive (frameBytes a .command len body) s)

/-- FRAME.DATA, R103. -/
def execFrameData (a : Word32) (len : Word16) (body : Bytes) (s : State) : Host.Outcome State Fault Refusal :=
  .next (arrive (frameBytes a .data len body) s)

/-- FRAME.ACK, R104. -/
def execFrameAck (a : Word32) (len : Word16) (body : Bytes) (s : State) : Host.Outcome State Fault Refusal :=
  .next (arrive (frameBytes a .ack len body) s)

/-- FRAME.ENDDATA, R105. -/
def execFrameEndData (a : Word32) (len : Word16) (body : Bytes) (s : State) : Host.Outcome State Fault Refusal :=
  .next (arrive (frameBytes a .endData len body) s)

end Sys2Proof.Machine
end

