-- ==== Sys2Proof/Machine/Dispatch.lean ====
section
/-! DEFINITION. What each instruction does: one meaning per row of spec/opcode_table.json. -/

namespace Sys2Proof.Machine

def exec (i : Instr) (s : State) : Host.Outcome State Fault Refusal :=
  match i with
  | .encode a t p => Sys2Proof.Machine.execEncode a t p s
  | .decode raw ea et => Sys2Proof.Machine.execDecode raw ea et s
  | .checksum t p => Sys2Proof.Machine.execChecksum t p s
  | .openChannel c a tmo => Sys2Proof.Machine.execOpen c a tmo s
  | .sendCommand p => Sys2Proof.Machine.execSendCommand p s
  | .receive et m => Sys2Proof.Machine.execReceive et m s
  | .transfer p e => Sys2Proof.Machine.execTransfer p e s
  | .setAddress a => Sys2Proof.Machine.execSetAddress a s
  | .download n sz => Sys2Proof.Machine.execDownload n sz s
  | .upload b sz => Sys2Proof.Machine.execUpload b sz s
  | .frameCommand a len body => Sys2Proof.Machine.execFrameCommand a len body s
  | .frameData a len body => Sys2Proof.Machine.execFrameData a len body s
  | .frameAck a len body => Sys2Proof.Machine.execFrameAck a len body s
  | .frameEndData a len body => Sys2Proof.Machine.execFrameEndData a len body s

end Sys2Proof.Machine
end

