-- ==== Sys2Proof/Machine/Fetch.lean ====
section
/-! DEFINITION. Where an instruction comes from: the first of State's inputs (log entry 1). The block "has no program
counter, no instruction memory and fetches nothing" (10_state.md R21); requests come from the host, frames from the
link. -/

namespace Sys2Proof.Machine

/-- What a step finds. -/
inductive Fetched where
  /-- An instruction, and the inputs that remain behind it. -/
  | instr (i : Instr) (rest : List Input)
  /-- Bytes on the link that are no whole frame of the four types. -/
  | noise (bs : Bytes) (rest : List Input)
  /-- A request with a reserved operation selector (R84). -/
  | reservedOp (rest : List Input)
  /-- A request message that is no request (log entry 2). -/
  | notARequest (why : DecodeError)
  | closing (rest : List Input)
  | resetting (rest : List Input)
  /-- Nothing: the block "is idle and waits for a host operation" (R240). -/
  | nothing
deriving DecidableEq, Repr

/-- The link is a byte stream: what follows a frame is read next. -/
def linkRest (more : Bytes) (rest : List Input) : List Input :=
  if more.isEmpty then rest else .link more :: rest

/-- A request message carries one request; a reserved selector is found before anything else (R224). -/
def fetchRequest (msg : Bytes) (rest : List Input) : Fetched :=
  match decodeRequest msg with
  | .ok (i, _) => .instr i rest
  | .error (.badOp _) => .reservedOp rest
  | .error e => .notARequest e

def fetchLink (bs : Bytes) (rest : List Input) : Fetched :=
  match decodeFrame bs with
  | .ok (i, more) => .instr i (linkRest more rest)
  | .error _ => .noise bs rest

def fetch : List Input → Fetched
  | [] => .nothing
  | .request msg :: rest => fetchRequest msg rest
  | .link bs :: rest => fetchLink bs rest
  | .closeChannel :: rest => .closing rest
  | .reset :: rest => .resetting rest

/-- The input that carries a table row's number (log entry 1). -/
def inputOfWord (nbits w : Nat) : Input :=
  if isFrameWord nbits then .link (tableWordBytes nbits w) else .request (tableWordBytes nbits w)

end Sys2Proof.Machine
end

