-- ==== Sys2Proof/Machine/Step.lean ====
section
/-! DEFINITION. One step: the next input is taken and acted on; with none the block waits. -/

namespace Sys2Proof.Machine

/-- The state with the inputs `rest`. -/
def State.withInputs (s : State) (rest : List Input) : State := { s with inputs := rest }

def step (s : State) : Host.Outcome State Fault Refusal :=
  match fetch s.inputs with
  | .instr i rest => exec i (s.withInputs rest)
  | .noise bs rest => .next (arrive bs (s.withInputs rest))
  | .reservedOp rest => .next (refuse .badOp (s.withInputs rest))
  | .notARequest why => .refused (.notARequest why)
  | .closing rest => .next (closeChannel (s.withInputs rest))
  | .resetting rest => .next (hostReset (s.withInputs rest))
  | .nothing => .next s

/-- `s` with the table row's instruction as its next input. -/
def State.withFetchWord (s : State) (nbits w : Nat) : State :=
  s.withInputs (inputOfWord nbits w :: s.inputs)

end Sys2Proof.Machine
end

