-- ==== Sys2Proof/Safety.lean ====
section
/-! DEFINITION. What claims are stated in: the block between two operations (70_reset_and_hazards.md R259), the codes
it may hold (60_exceptions.md R211, R221, R223), the sizes of its byte spaces (10_state.md R33), and what an operation
depends on. -/

namespace Sys2Proof.Machine

/-- R259: at the end of an operation "`BUSY = 0`, `TXPH = T_IDLE`, `RXPH = R_IDLE`, `SEQ = Q_IDLE`". -/
def isIdle (s : State) : Bool :=
  !s.busy && s.tx.txph == .idle && s.rx.rxph == .idle && s.sq.seq == .idle

/-- R26, R27, R259: "`ERR` and `REF` hold the codes of that result", and the block never raises StatusError (R221). -/
def codesAgree (s : State) : Bool :=
  match s.result with
  | none => s.err == 0 && s.ref == 0
  | some (.ok _) => s.err == 0 && s.ref == 0
  | some (.error k) => s.err == errCode k && s.ref == 0 && k != .statusError
  | some (.refused r) => s.err == 0 && s.ref == refCode r

/-- R211: RXERR holds 0 or the code of an error that the receive machine latches (R118 to R123). -/
def rxerrLegal (s : State) : Bool :=
  s.rx.rxerr == 0 || (4 ≤ s.rx.rxerr.toNat && s.rx.rxerr.toNat ≤ 7)

/-- R33: TXPAY and RXPAY hold 0 to 65533 bytes, FRAME at most 65544. The canonical form of the block's byte spaces:
a sequence with its length, within the space's bounds (log entry 19). -/
def Memory.wf (s : State) : Bool :=
  decide (s.txpay.length ≤ maxPayload) && decide (s.rxpay.length ≤ maxPayload) &&
    decide (s.frame.length ≤ maxPayload + frameOverhead)

/-- R32: PKTSZ is at most 65533. -/
def pktszLegal (s : State) : Bool := decide (s.sq.pktsz.toNat ≤ maxPayload)

/-- What every step keeps: the block is between two operations and holds what the rules allow there. -/
def blockInv (s : State) : Bool :=
  isIdle s && codesAgree s && rxerrLegal s && Memory.wf s && pktszLegal s

/-- Everything an operation may depend on besides its operands (R222, R144, R240: "No rule reads an unspecified
register before writing it"): the session registers, BUSY, SEQ, and the channel. -/
def sameInterface (s t : State) : Prop :=
  s.addr = t.addr ∧ s.timeout = t.timeout ∧ s.opened = t.opened ∧ s.busy = t.busy ∧ s.sq.seq = t.sq.seq ∧
    s.chan = t.chan

/-- Everything of an operation that the host or the link can see (R259, R260): the result, ERR, REF, BUSY, ADDR,
TIMEOUT, OPENED and the channel. -/
def sameOutcome (s t : State) : Prop :=
  s.result = t.result ∧ s.err = t.err ∧ s.ref = t.ref ∧ s.busy = t.busy ∧ s.addr = t.addr ∧
    s.timeout = t.timeout ∧ s.opened = t.opened ∧ s.chan = t.chan

/-- The instruction's own end: a next state in which the result `r` has been delivered (R85). -/
def EndsWith (o : Host.Outcome State Fault Refusal) (r : OpResult) : Prop :=
  ∃ t, o = .next t ∧ t.result = some r

/-- The instruction is one of the ten host operations (R83). -/
def isRequest : Instr → Bool
  | .frameCommand _ _ _ => false
  | .frameData _ _ _ => false
  | .frameAck _ _ _ => false
  | .frameEndData _ _ _ => false
  | _ => true

/-- The table of R212: which operation can end with which error (a blank means never). -/
def canRaise : Instr → List ErrorKind
  | .decode _ _ _ => [.emptyRead, .headerMismatch, .addressMismatch, .typeMismatch, .checksumMismatch]
  | .openChannel _ _ _ => [.connectionError]
  | .sendCommand _ => [.writeError]
  | .receive _ _ =>
    [.connectionError, .emptyRead, .headerMismatch, .addressMismatch, .typeMismatch, .checksumMismatch]
  | .transfer _ _ =>
    [.connectionError, .writeError, .emptyRead, .headerMismatch, .addressMismatch, .typeMismatch, .checksumMismatch]
  | .download _ _ =>
    [.connectionError, .emptyRead, .headerMismatch, .addressMismatch, .typeMismatch, .checksumMismatch, .shortTransfer]
  | .upload _ _ => [.writeError]
  | _ => []

/-- A channel answer of an open channel: these bytes arrive before it, a read gives at most `given` bytes, a write
accepts at most `accepted`. -/
def quietEvent (arrived : Bytes) (given accepted : Nat) : ChanEvent :=
  { arrive := arrived, closes := false, saysClosed := false, gives := given, accepts := accepted, opens := true,
    keeps := true }

end Sys2Proof.Machine
end

