-- ==== Sys2Proof/Certificates/Slice0/Obligations.lean ====
section
/-! DEFINITION. The statements about the block, from the numbered rules of spec/. `isIdle s = true` is the state between
two operations (70_reset_and_hazards.md R259); `StepKeepsBlockInvariant` and `ResetState` say that no run leaves it.
A channel answer is a field of the state (`script`) or a free value: every statement holds for every answer. -/

open Sys2Proof Sys2Proof.Machine

/-! ### Encodings -/

/-- Every well-formed instruction is read back from its bytes, whatever follows them. The frame's bytes are R70's and
R79's, the selectors R83's; the rest of a request's byte form is the model's (log entry 2). -/
def Obligations.DecodeEncodeRoundTrip : Prop :=
  ∀ (i : Instr) (rest : Bytes), wellFormed i = true → decode (encode i ++ rest) = .ok (i, rest)

/-- The other direction, for frames (R78, R79, R80): a byte string that reads as a frame is that frame's bytes and
what follows them, and the frame is well-formed. -/
def Obligations.DecodedFrameHasItsBytes : Prop :=
  ∀ (bs : Bytes) (i : Instr) (rest : Bytes), decodeFrame bs = .ok (i, rest) →
    bs = encode i ++ rest ∧ wellFormed i = true ∧ isRequest i = false

/-- Frame headers written out from R70 and R79, and operation selectors from R83. That a request's operands are zeros
where the table gives them no bits, and every operand byte of the four conjuncts with a selector 2, 7, 0 or 8, are the
model's form of a request (log entry 2), which the spec leaves open. -/
def Obligations.SpecWordsDecode : Prop :=
  decodeTableWord 72 0xEF01FFFFFFFF010000 = some (.frameCommand 0xFFFFFFFF 0 []) ∧
  decodeTableWord 72 0xEF0112345678020002 = some (.frameData 0x12345678 2 [0, 0]) ∧
  decodeTableWord 72 0xEF0100000000070000 = some (.frameAck 0 0 []) ∧
  decodeTableWord 72 0xEF0101020304080001 = some (.frameEndData 0x01020304 1 [0]) ∧
  decodeTableWord 72 0xEF0100000000030000 = none ∧
  decodeTableWord 8 0x2 = some (.checksum 0 []) ∧
  decodeTableWord 8 0x7 = some (.setAddress 0) ∧
  decodeTableWord 8 0xA = none ∧
  decode [0x00, 0xFF, 0xFF, 0xFF, 0xFF, 0x01, 0x01, 0x2A] = .ok (.encode 0xFFFFFFFF 0x01 [0x2A], []) ∧
  decode [0x08, 0x03, 0x04] = .ok (.download 3 4, [])

/-! ### The step -/

/-- A step runs the decoded instruction: a request at the head of the inputs, or a frame at the head of the bytes on
the link, is `exec` of that instruction on the state without it (log entries 1 and 2). -/
def Obligations.StepRunsDecodedInstruction : Prop :=
  (∀ (s : State) (i : Instr) (msg more : Bytes) (rest : List Input),
    s.inputs = .request msg :: rest → decodeRequest msg = .ok (i, more) →
      step s = exec i { s with inputs := rest }) ∧
  (∀ (s : State) (i : Instr) (bs more : Bytes) (rest : List Input),
    s.inputs = .link bs :: rest → decodeFrame bs = .ok (i, more) →
      step s = exec i { s with inputs := if more = [] then rest else .link more :: rest })

/-- What a step does with every other input (log entry 1): other bytes on the link join the pending input; the caller
may close the channel, which leaves OPENED alone (R25); a request with a reserved selector is refused BadOp (R84);
a message that is no request, empty or cut short, is refused by name (log entry 2: the message's form is the model's);
a reset gives the state after reset, the channel and the later inputs kept (R241; log entry 9); with no input the block
waits (R240). -/
def Obligations.StepOnOtherInputs : Prop :=
  (∀ (s : State) (bs : Bytes) (e : DecodeError) (rest : List Input),
    s.inputs = .link bs :: rest → decodeFrame bs = .error e →
      step s = .next { s with inputs := rest, chan := { s.chan with pending := s.chan.pending ++ bs } }) ∧
  (∀ (s : State) (rest : List Input), s.inputs = .closeChannel :: rest →
      step s = .next { s with inputs := rest, chan := { s.chan with closed := true } }) ∧
  (∀ (s : State) (msg : Bytes) (op : BitVec 4) (rest : List Input), s.inputs = .request msg :: rest →
    decodeRequest msg = .error (.badOp op) →
      step s = .next { s with inputs := rest, ref := 9, err := 0, result := some (.refused .badOp) }) ∧
  (∀ (s : State) (msg : Bytes) (e : DecodeError) (rest : List Input), s.inputs = .request msg :: rest →
    decodeRequest msg = .error e → (∀ op, e ≠ .badOp op) → step s = .refused (.notARequest e)) ∧
  (∀ (s : State) (rest : List Input), s.inputs = .reset :: rest →
      step s = .next { State.reset with chan := s.chan, inputs := rest }) ∧
  (∀ s : State, s.inputs = [] → step s = .next s)

/-- R84: a request that carries a reserved selector is refused with BadOp, also while an operation is in progress
(R224), "and, like every refusal, changes nothing but `REF` and `ERR`". The model's own: that the selector is the low
half of a message's first byte, the high half ignored (log entry 2), the list of inputs (log entry 1), and the result
that is written (R85; log entry 16). -/
def Obligations.ReservedSelectorIsRefused : Prop :=
  ∀ (s : State) (b : Byte) (msg : Bytes) (rest : List Input),
    s.inputs = .request (b :: msg) :: rest → 10 ≤ b.toNat % 16 →
      step s = .next { s with inputs := rest, ref := 9, err := 0, result := some (.refused .badOp) }

/-- R241: a reset, also in the middle of an operation, brings the machines and the sequencer to their idle states,
ends the session, delivers no result, and leaves the channel and what it has accepted alone. That the last result is
none afterwards, also after a reset between two operations, and that the later inputs stay, is the model's choice (log
entry 9). -/
def Obligations.HostResetAbandonsTheSession : Prop :=
  ∀ (s : State) (rest : List Input), s.inputs = .reset :: rest →
    ∃ t, step s = .next t ∧ t.opened = false ∧ t.busy = false ∧ t.err = 0 ∧ t.ref = 0 ∧ t.tx.txph = .idle ∧
      t.rx.rxph = .idle ∧ t.rx.got = false ∧ t.rx.rxerr = 0 ∧ t.sq.seq = .idle ∧ t.result = none ∧
      t.chan = s.chan ∧ t.inputs = rest

/-- R240: the values after reset, and the invariant there. -/
def Obligations.ResetState : Prop :=
  State.reset.opened = false ∧ State.reset.busy = false ∧ State.reset.err = 0 ∧ State.reset.ref = 0 ∧
    State.reset.tx.txph = .idle ∧ State.reset.rx.rxph = .idle ∧ State.reset.rx.got = false ∧
    State.reset.rx.rxerr = 0 ∧ State.reset.sq.seq = .idle ∧ blockInv State.reset = true

/-! ### The codec -/

/-- R100, ENCODE: the refusals in their order, and the frame in FRAME and as the result, with the registers of the
transmit machine as R110 to R116 leave them; everything else is unchanged. -/
def Obligations.EncodeOperation : Prop :=
  ∀ (s : State) (a : Word32) (t : Byte) (p : Bytes), isIdle s = true →
    (t ∉ [0x01, 0x02, 0x07, 0x08] →
      exec (.encode a t p) s = .next { s with ref := 3, err := 0, result := some (.refused .badType) }) ∧
    (t ∈ [0x01, 0x02, 0x07, 0x08] → 65533 < p.length →
      exec (.encode a t p) s = .next { s with ref := 4, err := 0, result := some (.refused .badLength) }) ∧
    (t ∈ [0x01, 0x02, 0x07, 0x08] → p.length ≤ 65533 →
      let frame := [0xEF, 0x01] ++ be32 a ++ [t] ++ be16 (BitVec.ofNat 16 (p.length + 2)) ++ p ++ be16 (checksumOf t p)
      exec (.encode a t p) s =
        .next { s with
          tx := { txph := .idle, txi := 0, txa := a, txtyp := t, txlen := BitVec.ofNat 16 (p.length + 2),
                  txcnt := BitVec.ofNat 16 p.length }
          csum := checksumOf t p
          txpay := p
          frame := frame
          err := 0
          ref := 0
          result := some (.ok (.bytes frame)) })

/-- R101 and R214, DECODE: an expected type outside the four is refused BadType (R223); the operand stands in RAW, and
RXPAY holds the payload on Ok and nothing on an error (R125); the first check that fails decides, on buffers of every
length; a whole right frame gives its payload, whatever follows it (R101 step 11; the surplus bytes are ignored: log
entry 17). -/
def Obligations.DecodeOperationByFirstFailure : Prop :=
  ∀ (s : State) (ea : Word32) (et : Byte), isIdle s = true →
    (∀ raw, et ∉ [0x01, 0x02, 0x07, 0x08] →
      exec (.decode raw ea et) s = .next { s with ref := 3, err := 0, result := some (.refused .badType) }) ∧
    (et ∈ [0x01, 0x02, 0x07, 0x08] →
    (∀ raw, ∃ t, exec (.decode raw ea et) s = .next t ∧ t.raw = raw ∧
      ((∃ p, t.result = some (.ok (.bytes p)) ∧ t.rxpay = p) ∨ (∃ k, t.result = some (.error k) ∧ t.rxpay = []))) ∧
    EndsWith (exec (.decode [] ea et) s) (.error .emptyRead) ∧
    (∀ b, EndsWith (exec (.decode [b] ea et) s) (.error .headerMismatch)) ∧
    (∀ b0 b1 tail, ¬ (b0 = 0xEF ∧ b1 = 0x01) →
      EndsWith (exec (.decode (b0 :: b1 :: tail) ea et) s) (.error .headerMismatch)) ∧
    (∀ tail : Bytes, tail.length < 4 →
      EndsWith (exec (.decode (0xEF :: 0x01 :: tail) ea et) s) (.error .headerMismatch)) ∧
    (∀ a tail, a ≠ ea →
      EndsWith (exec (.decode ([0xEF, 0x01] ++ be32 a ++ tail) ea et) s) (.error .addressMismatch)) ∧
    EndsWith (exec (.decode ([0xEF, 0x01] ++ be32 ea) ea et) s) (.error .headerMismatch) ∧
    (∀ t tail, t ≠ et →
      EndsWith (exec (.decode ([0xEF, 0x01] ++ be32 ea ++ t :: tail) ea et) s) (.error .typeMismatch)) ∧
    (∀ tail : Bytes, tail.length < 2 →
      EndsWith (exec (.decode ([0xEF, 0x01] ++ be32 ea ++ et :: tail) ea et) s) (.error .headerMismatch)) ∧
    (∀ (len : Word16) (tail : Bytes), len.toNat < 2 ∨ tail.length < len.toNat →
      EndsWith (exec (.decode ([0xEF, 0x01] ++ be32 ea ++ et :: be16 len ++ tail) ea et) s)
        (.error .headerMismatch)) ∧
    (∀ (p : Bytes) (ck : Word16) (more : Bytes), p.length ≤ 65533 → ck ≠ checksumOf et p →
      EndsWith (exec (.decode ([0xEF, 0x01] ++ be32 ea ++ et :: be16 (BitVec.ofNat 16 (p.length + 2)) ++ p ++ be16 ck
        ++ more) ea et) s) (.error .checksumMismatch)) ∧
    (∀ (p more : Bytes), p.length ≤ 65533 →
      EndsWith (exec (.decode ([0xEF, 0x01] ++ be32 ea ++ et :: be16 (BitVec.ofNat 16 (p.length + 2)) ++ p
        ++ be16 (checksumOf et p) ++ more) ea et) s) (.ok (.bytes p))))

/-- R140, CHECKSUM: the refusals in their order; CSUM and the result are the sum of the two length bytes, the type and
the payload modulo 65536; everything else is unchanged. -/
def Obligations.ChecksumOperation : Prop :=
  ∀ (s : State) (t : Byte) (p : Bytes), isIdle s = true →
    (t ∉ [0x01, 0x02, 0x07, 0x08] →
      exec (.checksum t p) s = .next { s with ref := 3, err := 0, result := some (.refused .badType) }) ∧
    (t ∈ [0x01, 0x02, 0x07, 0x08] → 65533 < p.length →
      exec (.checksum t p) s = .next { s with ref := 4, err := 0, result := some (.refused .badLength) }) ∧
    (t ∈ [0x01, 0x02, 0x07, 0x08] → p.length ≤ 65533 →
      ∃ w : Word16,
        w.toNat = ((p.length + 2) / 256 + (p.length + 2) % 256 + t.toNat + (p.map BitVec.toNat).sum) % 65536 ∧
        exec (.checksum t p) s =
          .next { s with csum := w, err := 0, ref := 0, result := some (.ok (.word w)) })

/-- R145: when exactly one covered byte changes, the sum of the covered bytes changes by `d` with `1 <= |d| <= 255`, so the
checksum changes; and a frame whose checksum field alone is altered never validates, under whatever address and type, and
gives ChecksumMismatch under its own. -/
def Obligations.OneCoveredByteChangesTheSum : Prop :=
  (∀ (t : Byte) (p : Bytes), checksumOf t p = BitVec.ofNat 16 (byteSum (t :: be16 (lenField p) ++ p))) ∧
  (∀ (covered : Bytes) (k : Nat) (b c : Byte), covered[k]? = some b → c ≠ b →
    let d : Int := (byteSum (covered.set k c) : Int) - (byteSum covered : Int)
    1 ≤ |d| ∧ |d| ≤ 255 ∧ BitVec.ofNat 16 (byteSum (covered.set k c)) ≠ BitVec.ofNat 16 (byteSum covered)) ∧
  (∀ (s : State) (a : Word32) (t : PacketType) (p : Bytes) (ck : Word16), isIdle s = true → p.length ≤ 65533 →
    ck ≠ checksumOf t.code p →
    (∀ ea et q, ¬ EndsWith (exec (.decode (frameHeader a t.code (lenField p) ++ p ++ be16 ck) ea et) s)
      (.ok (.bytes q))) ∧
    EndsWith (exec (.decode (frameHeader a t.code (lenField p) ++ p ++ be16 ck) a t.code) s)
      (.error .checksumMismatch))

/-- R146, R142: the order of the payload bytes is not detected. -/
def Obligations.ChecksumIgnoresPayloadOrder : Prop :=
  ∀ (t : Byte) (p q : Bytes), p.Perm q → checksumOf t p = checksumOf t q

/-- R106: "`DECODE(ENCODE(A, T, P), A, T) = Ok(P)`", from any state between two operations. -/
def Obligations.EncodeThenDecodeReturnsPayload : Prop :=
  ∀ (s : State) (a : Word32) (t : PacketType) (p : Bytes), isIdle s = true → p.length ≤ 65533 →
    ∃ s1 frame, exec (.encode a t.code p) s = .next s1 ∧ s1.result = some (.ok (.bytes frame)) ∧
      EndsWith (exec (.decode frame a t.code) s1) (.ok (.bytes p))

/-- R107: what a change in each field of a frame gives: the start code, the address, the type, the payload or the
checksum, and the length field (below 2 or above the old one: HeaderMismatch; else ChecksumMismatch, unless the two
bytes then read as the checksum are the sum over the shortened frame); and a change of several payload bytes that leaves
the 16-bit sum unchanged is not detected. -/
def Obligations.CorruptedFramesAreDetected : Prop :=
  ∀ (s : State) (a : Word32) (t : PacketType) (p : Bytes), isIdle s = true → p.length ≤ 65533 →
    let dec (raw : Bytes) := exec (.decode raw a t.code) s
    let tail := p ++ be16 (checksumOf t.code p)
    (∀ b0 b1, ¬ (b0 = 0xEF ∧ b1 = 0x01) →
      EndsWith (dec ([b0, b1] ++ be32 a ++ [t.code] ++ be16 (lenField p) ++ tail)) (.error .headerMismatch)) ∧
    (∀ a', a' ≠ a →
      EndsWith (dec ([0xEF, 0x01] ++ be32 a' ++ [t.code] ++ be16 (lenField p) ++ tail)) (.error .addressMismatch)) ∧
    (∀ c, c ≠ t.code →
      EndsWith (dec ([0xEF, 0x01] ++ be32 a ++ [c] ++ be16 (lenField p) ++ tail)) (.error .typeMismatch)) ∧
    (∀ k b c, p[k]? = some b → c ≠ b →
      EndsWith (dec (frameHeader a t.code (lenField p) ++ p.set k c ++ be16 (checksumOf t.code p)))
        (.error .checksumMismatch)) ∧
    (∀ ck, ck ≠ checksumOf t.code p →
      EndsWith (dec (frameHeader a t.code (lenField p) ++ p ++ be16 ck)) (.error .checksumMismatch)) ∧
    (∀ len : Word16, len.toNat < 2 ∨ (lenField p).toNat < len.toNat →
      EndsWith (dec (frameHeader a t.code len ++ tail)) (.error .headerMismatch)) ∧
    (∀ len : Word16, 2 ≤ len.toNat → len.toNat < (lenField p).toNat →
      let q := tail.take (len.toNat - 2)
      EndsWith (dec (frameHeader a t.code len ++ tail))
        (if (tail.drop (len.toNat - 2)).take 2 = be16 (checksumOf t.code q) then .ok (.bytes q)
         else .error .checksumMismatch)) ∧
    (∀ q : Bytes, q.length = p.length → checksumOf t.code q = checksumOf t.code p →
      EndsWith (dec (frameHeader a t.code (lenField p) ++ q ++ be16 (checksumOf t.code p))) (.ok (.bytes q)))

/-- R108: the byte-serial level agrees with the transaction level. The transmit machine emits R100's frame byte by
byte, and is idle after the last byte and not before; the receive machine, however the bytes of the read are cut, reports
R101's outcome. -/
def Obligations.ByteSerialLevelAgrees : Prop :=
  (∀ (a : Word32) (t : Byte) (p : Bytes) (s : State) (k : Nat), p.length ≤ 65533 → k ≤ p.length + 11 →
    (txRun k (txStart a t p s)).frame =
      ([0xEF, 0x01] ++ be32 a ++ [t] ++ be16 (BitVec.ofNat 16 (p.length + 2)) ++ p ++ be16 (checksumOf t p)).take k ∧
    ((txRun k (txStart a t p s)).tx.txph = .idle ↔ k = p.length + 11)) ∧
  (∀ (x y : Bytes) (ea : Word32) (et : Byte) (s : State),
    rxOutcome (rxFeed y (rxFeed x (rxStart ea et s))) = validate (x ++ y) ea et)

/-- R111 to R116: one step of the transmit machine in each phase: the byte it appends to FRAME, what it adds to CSUM,
where it goes. Nothing else changes. -/
def Obligations.TransmitStepByPhase : Prop :=
  ∀ s : State,
    let emit (b : Byte) (cs : Word16) (m : TxMachine) : State := { s with frame := s.frame ++ [b], csum := cs, tx := m }
    (s.tx.txph = .sc → s.tx.txi = 0 → txStep s = emit 0xEF s.csum { s.tx with txi := 1 }) ∧
    (s.tx.txph = .sc → s.tx.txi ≠ 0 → txStep s = emit 0x01 s.csum { s.tx with txi := 0, txph := .addr }) ∧
    (s.tx.txph = .addr → s.tx.txi = 0 → txStep s = emit (s.tx.txa.extractLsb' 24 8) s.csum { s.tx with txi := 1 }) ∧
    (s.tx.txph = .addr → s.tx.txi = 1 → txStep s = emit (s.tx.txa.extractLsb' 16 8) s.csum { s.tx with txi := 2 }) ∧
    (s.tx.txph = .addr → s.tx.txi = 2 → txStep s = emit (s.tx.txa.extractLsb' 8 8) s.csum { s.tx with txi := 3 }) ∧
    (s.tx.txph = .addr → s.tx.txi = 3 →
      txStep s = emit (s.tx.txa.extractLsb' 0 8) s.csum { s.tx with txi := 0, txph := .type }) ∧
    (s.tx.txph = .type →
      txStep s = emit s.tx.txtyp (s.csum + s.tx.txtyp.setWidth 16) { s.tx with txi := 0, txph := .len }) ∧
    (s.tx.txph = .len → s.tx.txi = 0 →
      txStep s = emit (s.tx.txlen.extractLsb' 8 8) (s.csum + (s.tx.txlen.extractLsb' 8 8).setWidth 16)
        { s.tx with txi := 1 }) ∧
    (s.tx.txph = .len → s.tx.txi ≠ 0 →
      txStep s = emit (s.tx.txlen.extractLsb' 0 8) (s.csum + (s.tx.txlen.extractLsb' 0 8).setWidth 16)
        { s.tx with txi := 0, txph := if s.tx.txlen = 2 then .ck else .pay }) ∧
    (∀ b, s.tx.txph = .pay → s.txpay[s.tx.txcnt.toNat]? = some b →
      txStep s = emit b (s.csum + b.setWidth 16)
        { s.tx with txcnt := s.tx.txcnt + 1
                    txph := if s.tx.txcnt + 1 = s.tx.txlen - 2 then .ck else .pay }) ∧
    (s.tx.txph = .ck → s.tx.txi = 0 → txStep s = emit (s.csum.extractLsb' 8 8) s.csum { s.tx with txi := 1 }) ∧
    (s.tx.txph = .ck → s.tx.txi ≠ 0 →
      txStep s = emit (s.csum.extractLsb' 0 8) s.csum { s.tx with txi := 0, txph := .idle })

/-- R118 to R124: one byte into the receive machine in each phase. GOT becomes 1, and nothing but what is named
changes. -/
def Obligations.ReceiveStepByPhase : Prop :=
  ∀ (s : State) (b : Byte),
    let sh : Word32 := s.rx.shift <<< 8 ||| b.setWidth 32
    let low : Word16 := sh.extractLsb' 0 16
    let m : RxMachine := { s.rx with got := true }
    let cs : Word16 := s.csum + b.setWidth 16
    (s.rx.rxph = .sc → s.rx.rxi = 0 → rxStep b s = { s with rx := { m with shift := sh, rxi := 1 } }) ∧
    (s.rx.rxph = .sc → s.rx.rxi ≠ 0 → low = 0xEF01 →
      rxStep b s = { s with rx := { m with shift := sh, rxi := 0, rxph := .addr } }) ∧
    (s.rx.rxph = .sc → s.rx.rxi ≠ 0 → low ≠ 0xEF01 →
      rxStep b s = { s with rx := { m with shift := sh, rxi := 0, rxph := .fail, rxerr := 4 } }) ∧
    (s.rx.rxph = .addr → s.rx.rxi.toNat < 3 →
      rxStep b s = { s with rx := { m with shift := sh, rxi := s.rx.rxi + 1 } }) ∧
    (s.rx.rxph = .addr → s.rx.rxi = 3 → sh = s.rx.ea →
      rxStep b s = { s with rx := { m with shift := sh, rxi := 0, rxph := .type } }) ∧
    (s.rx.rxph = .addr → s.rx.rxi = 3 → sh ≠ s.rx.ea →
      rxStep b s = { s with rx := { m with shift := sh, rxi := 0, rxph := .fail, rxerr := 5 } }) ∧
    (s.rx.rxph = .type → b = s.rx.et →
      rxStep b s = { s with rx := { m with rxi := 0, rxph := .len }, csum := cs }) ∧
    (s.rx.rxph = .type → b ≠ s.rx.et → rxStep b s = { s with rx := { m with rxph := .fail, rxerr := 6 } }) ∧
    (s.rx.rxph = .len → s.rx.rxi = 0 →
      rxStep b s = { s with rx := { m with shift := sh, rxi := 1 }, csum := cs }) ∧
    (s.rx.rxph = .len → s.rx.rxi ≠ 0 → low.toNat < 2 →
      rxStep b s =
        { s with rx := { m with shift := sh, rxi := 0, rxlen := low, rxph := .fail, rxerr := 4 }, csum := cs }) ∧
    (s.rx.rxph = .len → s.rx.rxi ≠ 0 → low = 2 →
      rxStep b s = { s with rx := { m with shift := sh, rxi := 0, rxlen := low, rxph := .ck }, csum := cs }) ∧
    (s.rx.rxph = .len → s.rx.rxi ≠ 0 → 2 < low.toNat →
      rxStep b s =
        { s with rx := { m with shift := sh, rxi := 0, rxlen := low, rxcnt := 0, rxph := .pay }, csum := cs }) ∧
    (s.rx.rxph = .pay → s.rx.rxcnt + 1 = s.rx.rxlen - 2 →
      rxStep b s =
        { s with rx := { m with rxcnt := s.rx.rxcnt + 1, rxi := 0, rxph := .ck }, csum := cs, rxpay := s.rxpay ++ [b] }) ∧
    (s.rx.rxph = .pay → s.rx.rxcnt + 1 ≠ s.rx.rxlen - 2 →
      rxStep b s = { s with rx := { m with rxcnt := s.rx.rxcnt + 1 }, csum := cs, rxpay := s.rxpay ++ [b] }) ∧
    (s.rx.rxph = .ck → s.rx.rxi = 0 → rxStep b s = { s with rx := { m with shift := sh, rxi := 1 } }) ∧
    (s.rx.rxph = .ck → s.rx.rxi ≠ 0 → low = s.csum →
      rxStep b s = { s with rx := { m with shift := sh, rxi := 0, rxph := .done } }) ∧
    (s.rx.rxph = .ck → s.rx.rxi ≠ 0 → low ≠ s.csum →
      rxStep b s = { s with rx := { m with shift := sh, rxi := 0, rxph := .fail, rxerr := 7 } }) ∧
    (s.rx.rxph = .done ∨ s.rx.rxph = .fail → rxStep b s = { s with rx := m })

/-! ### The session -/

/-- R154, OPEN. -/
def Obligations.OpenOperation : Prop :=
  ∀ (s : State) (c : Nat) (a : Word32) (tmo : Nat), isIdle s = true →
    (s.opened = true →
      exec (.openChannel c a tmo) s = .next { s with ref := 2, err := 0, result := some (.refused .alreadyOpen) }) ∧
    (s.opened = false → openAnswer s.chan = true →
      exec (.openChannel c a tmo) s =
        .next { s with chan := chanOpen c s.chan, addr := a, timeout := tmo, opened := true, err := 0, ref := 0,
                       result := some (.ok .unit) }) ∧
    (s.opened = false → openAnswer s.chan = false →
      exec (.openChannel c a tmo) s =
        .next { s with chan := chanOpen c s.chan, err := 1, ref := 0, result := some (.error .connectionError) })

/-- R155, SEND_COMMAND: one Command frame under ADDR, one write; fewer bytes accepted than the frame has is a
WriteError. TXLOG gains the accepted bytes, the first ones, in order (R150). -/
def Obligations.SendCommandOperation : Prop :=
  ∀ (s : State) (p : Bytes), isIdle s = true →
    (s.opened = false →
      exec (.sendCommand p) s = .next { s with ref := 1, err := 0, result := some (.refused .notOpen) }) ∧
    (s.opened = true → 65533 < p.length →
      exec (.sendCommand p) s = .next { s with ref := 4, err := 0, result := some (.refused .badLength) }) ∧
    (s.opened = true → p.length ≤ 65533 →
      let frame := [0xEF, 0x01] ++ be32 s.addr ++ [0x01] ++ be16 (BitVec.ofNat 16 (p.length + 2)) ++ p
        ++ be16 (checksumOf 0x01 p)
      let w := writeCount frame s.chan
      let sent : State :=
        { s with
          tx := { txph := .idle, txi := 0, txa := s.addr, txtyp := 0x01, txlen := BitVec.ofNat 16 (p.length + 2),
                  txcnt := BitVec.ofNat 16 p.length }
          csum := checksumOf 0x01 p
          txpay := p
          frame := frame
          chan := chanWrite frame s.chan
          ref := 0 }
      sent.chan.txlog = s.chan.txlog ++ frame.take w ∧
      sent.chan.calls = s.chan.calls ++ [.write frame] ∧
      (w = p.length + 11 → exec (.sendCommand p) s = .next { sent with err := 0, result := some (.ok .unit) }) ∧
      (w < p.length + 11 →
        exec (.sendCommand p) s = .next { sent with err := 2, result := some (.error .writeError) }))

/-- R156, RECEIVE: exactly one read with TIMEOUT; `Closed` is a ConnectionError, bytes go to DECODE with ADDR and the
expected type; a whole right frame at their front gives its payload. -/
def Obligations.ReceiveOperation : Prop :=
  ∀ (s : State) (et : Byte) (m : Nat), isIdle s = true →
    (s.opened = false →
      exec (.receive et m) s = .next { s with ref := 1, err := 0, result := some (.refused .notOpen) }) ∧
    (s.opened = true → et ∉ [0x01, 0x02, 0x07, 0x08] →
      exec (.receive et m) s = .next { s with ref := 3, err := 0, result := some (.refused .badType) }) ∧
    (s.opened = true → et ∈ [0x01, 0x02, 0x07, 0x08] → readAnswer m s.chan = none →
      exec (.receive et m) s =
        .next { s with chan := chanRead m s.timeout s.chan, err := 1, ref := 0,
                       result := some (.error .connectionError) }) ∧
    (∀ bs, s.opened = true → et ∈ [0x01, 0x02, 0x07, 0x08] → readAnswer m s.chan = some bs →
      exec (.receive et m) s = exec (.decode bs s.addr et) { s with chan := chanRead m s.timeout s.chan }) ∧
    (∀ p more, s.opened = true → et ∈ [0x01, 0x02, 0x07, 0x08] → p.length ≤ 65533 →
      readAnswer m s.chan = some (wireFrame s.addr et p ++ more) →
      ∃ t, exec (.receive et m) s = .next t ∧ t.result = some (.ok (.bytes p)) ∧ t.rxpay = p ∧ t.err = 0 ∧
        t.chan = chanRead m s.timeout s.chan ∧ t.addr = s.addr)

/-- R157, R87, TRANSFER: "`ChanFlushInput; ChanFlushOutput; settle; SEND_COMMAND P; RECEIVE Ack, ELEN`" and nothing
beyond it; on a WriteError nothing is read. -/
def Obligations.TransferIsFlushSendReceive : Prop :=
  ∀ (s t : State) (p : Bytes) (elen : Nat), isIdle s = true → s.opened = true → p.length ≤ 65533 →
    exec (.sendCommand p) { s with chan := chanFlushOutput (chanFlushInput s.chan) } = .next t →
      (t.result = some (.error .writeError) → exec (.transfer p elen) s = .next t) ∧
      (t.result = some (.ok .unit) → exec (.transfer p elen) s = exec (.receive 0x07 elen) t)

/-- R157: the refusals; and when the channel takes the whole Command frame and the read after it answers an Ack frame
under ADDR, TRANSFER returns the Ack's payload, unexamined, having made the four calls in order. -/
def Obligations.TransferCompletes : Prop :=
  ∀ (s : State) (p : Bytes) (elen : Nat), isIdle s = true →
    (s.opened = false →
      exec (.transfer p elen) s = .next { s with ref := 1, err := 0, result := some (.refused .notOpen) }) ∧
    (s.opened = true → 65533 < p.length →
      exec (.transfer p elen) s = .next { s with ref := 4, err := 0, result := some (.refused .badLength) }) ∧
    (∀ q more, s.opened = true → p.length ≤ 65533 → q.length ≤ 65533 →
      let c := chanFlushOutput (chanFlushInput s.chan)
      let frame := wireFrame s.addr 0x01 p
      writeCount frame c = frame.length →
      readAnswer elen (chanWrite frame c) = some (wireFrame s.addr 0x07 q ++ more) →
      ∃ t, exec (.transfer p elen) s = .next t ∧ t.result = some (.ok (.bytes q)) ∧ t.err = 0 ∧ t.ref = 0 ∧
        t.chan.txlog = s.chan.txlog ++ frame ∧
        t.chan.calls = s.chan.calls ++ [.flushInput, .flushOutput, .write frame, .read elen s.timeout])

/-- R158, SET_ADDRESS: ADDR and the result registers, nothing else; nothing is sent. -/
def Obligations.SetAddressOperation : Prop :=
  ∀ (s : State) (a : Word32), isIdle s = true →
    (s.opened = false →
      exec (.setAddress a) s = .next { s with ref := 1, err := 0, result := some (.refused .notOpen) }) ∧
    (s.opened = true →
      exec (.setAddress a) s = .next { s with addr := a, err := 0, ref := 0, result := some (.ok .unit) })

/-- R158: every frame operation accepted after the `Ok` uses the new address: a frame from another address is
rejected, and the next command is sent under the new one. -/
def Obligations.AddressChangeTakesEffectAfterwards : Prop :=
  ∀ (s t : State) (new : Word32), isIdle s = true → s.opened = true → exec (.setAddress new) s = .next t →
    (∀ (old : Word32) (et : PacketType) (p : Bytes) (m : Nat), old ≠ new →
      readAnswer m t.chan = some (wireFrame old et.code p) →
      EndsWith (exec (.receive et.code m) t) (.error .addressMismatch)) ∧
    (∀ (p : Bytes) (u : State), p.length ≤ 65533 → exec (.sendCommand p) t = .next u →
      u.frame = wireFrame new 0x01 p)

/-! ### Bulk transfers -/

/-- R186: one download step. -/
def Obligations.DownloadStep : Prop :=
  ∀ s : State, s.sq.seq = .dl →
    let last := s.sq.idx + 1 = s.sq.cntn
    let et : Byte := if last then 0x08 else 0x02
    let t := receiveFrame et (s.sq.pktsz.toNat + 11) s
    (∀ e, receiveOutcome et (s.sq.pktsz.toNat + 11) s = .error e →
      dlStep s = ({ t with bulk := [], sq := { s.sq with seq := .idle } }, some (.error e))) ∧
    (∀ p, receiveOutcome et (s.sq.pktsz.toNat + 11) s = .ok p → ¬ last → p.length = 0 →
      dlStep s = ({ t with bulk := [], sq := { s.sq with seq := .idle } }, some (.error .shortTransfer))) ∧
    (∀ p, receiveOutcome et (s.sq.pktsz.toNat + 11) s = .ok p → last →
      dlStep s =
        ({ t with bulk := s.bulk ++ p, sq := { s.sq with seq := .idle } }, some (.ok (.bytes (s.bulk ++ p))))) ∧
    (∀ p, receiveOutcome et (s.sq.pktsz.toNat + 11) s = .ok p → ¬ last → p.length ≠ 0 →
      dlStep s = ({ t with bulk := s.bulk ++ p, sq := { s.sq with idx := s.sq.idx + 1 } }, none))

/-- R188: one upload step; at the last chunk of a transfer POS reaches the end of BULK. -/
def Obligations.UploadStep : Prop :=
  ∀ s : State, s.sq.seq = .ul →
    let last := s.sq.idx + 1 = s.sq.cntn
    let t : Byte := if last then 0x08 else 0x02
    let k := min s.sq.pktsz.toNat (s.bulk.length - s.sq.pos)
    let chunk := (s.bulk.drop s.sq.pos).take k
    let frame := wireFrame s.addr t chunk
    let w := writeCount frame s.chan
    let sent : State := { encodeFrame s.addr t chunk s with chan := chanWrite frame s.chan }
    k ≤ 65533 →
    (w < k + 11 → ulStep s = ({ sent with sq := { s.sq with seq := .idle } }, some (.error .writeError))) ∧
    (w = k + 11 → last →
      ulStep s = ({ sent with sq := { s.sq with seq := .idle, pos := s.sq.pos + k } }, some (.ok .unit))) ∧
    (w = k + 11 → ¬ last →
      ulStep s = ({ sent with sq := { s.sq with idx := s.sq.idx + 1, pos := s.sq.pos + k } }, none)) ∧
    (last → 1 ≤ s.sq.pktsz.toNat → s.sq.cntn = ceilDiv s.bulk.length s.sq.pktsz.toNat →
      s.sq.pos = s.sq.idx * s.sq.pktsz.toNat → s.sq.pos + k = s.bulk.length)

/-- R181: a download of one packet is a RECEIVE of an EndData frame; a download of more is
a RECEIVE of a Data frame, whose error ends it, whose empty payload is a ShortTransfer, and whose payload stands
before what the download of one packet less then gives. -/
def Obligations.DownloadIsRepeatedReceive : Prop :=
  ∀ (s t : State) (n size : Nat), isIdle s = true → s.opened = true → 1 ≤ size → size ≤ 65533 →
    (exec (.receive 0x08 (size + 11)) s = .next t →
      ∃ u, exec (.download 1 size) s = .next u ∧ u.result = t.result ∧ u.chan = t.chan) ∧
    (exec (.receive 0x02 (size + 11)) s = .next t →
      ∃ u, exec (.download (n + 2) size) s = .next u ∧
        (∀ k, t.result = some (.error k) → u.result = some (.error k) ∧ u.chan = t.chan) ∧
        (t.result = some (.ok (.bytes [])) → u.result = some (.error .shortTransfer) ∧ u.chan = t.chan) ∧
        (∀ b p v, t.result = some (.ok (.bytes (b :: p))) → exec (.download (n + 1) size) t = .next v →
          u.chan = v.chan ∧
          (∀ k, v.result = some (.error k) → u.result = some (.error k)) ∧
          (∀ q, v.result = some (.ok (.bytes q)) → u.result = some (.ok (.bytes (b :: p ++ q))))))

/-- R181, R193: when every read answers the next frame of a bulk transfer of the payloads `ps` (each at most `size`
bytes, all but the last not empty), DOWNLOAD returns them joined, in arrival order. An empty last payload is
accepted (log entry 17). -/
def Obligations.DownloadConcatenatesPayloads : Prop :=
  ∀ (s : State) (ps : List Bytes) (size : Nat) (later : List ChanEvent), isIdle s = true → s.opened = true →
    1 ≤ size → size ≤ 65533 → ps ≠ [] → (∀ p ∈ ps, p.length ≤ size) → (∀ p ∈ ps.dropLast, p ≠ []) →
    s.chan.closed = false → s.chan.pending = [] →
    s.chan.script = (bulkFrames s.addr ps).map (fun f => quietEvent f f.length 0) ++ later →
    ∃ t, exec (.download ps.length size) s = .next t ∧ t.result = some (.ok (.bytes ps.flatten)) ∧
      t.bulk = ps.flatten ∧ t.sq.seq = .idle ∧ t.err = 0 ∧ t.chan.script = later ∧ t.chan.pending = [] ∧
      t.addr = s.addr ∧ t.chan.calls = s.chan.calls ++ List.replicate ps.length (.read (size + 11) s.timeout)

/-- R191: a failed download leaves no partial buffer and no transfer to resume; a successful one leaves its result in
BULK. -/
def Obligations.FailedDownloadLeavesNothing : Prop :=
  ∀ (s : State) (n size : Nat), isIdle s = true → s.opened = true → 1 ≤ n → 1 ≤ size → size ≤ 65533 →
    ∃ t, exec (.download n size) s = .next t ∧ t.sq.seq = .idle ∧
      ((∃ k, t.result = some (.error k) ∧ t.bulk = []) ∨ t.result = some (.ok (.bytes t.bulk)))

/-- R193: the chunks of a buffer. -/
def Obligations.ChunksCoverTheBuffer : Prop :=
  ∀ (b : Bytes) (size : Nat), 1 ≤ size →
    (chunks size b).flatten = b ∧ (chunks size b).length = ceilDiv b.length size ∧
    (∀ c ∈ chunks size b, 1 ≤ c.length ∧ c.length ≤ size) ∧
    (∀ c ∈ (chunks size b).dropLast, c.length = size) ∧
    (∀ j c, (chunks size b)[j]? = some c → c = (b.drop (j * size)).take size)

/-- R182, R193: when the channel takes every frame whole, UPLOAD puts the chunks of the buffer on the link, in order,
Data frames closed by one EndData frame, all under ADDR, and reads nothing. -/
def Obligations.UploadSendsTheChunks : Prop :=
  ∀ (s : State) (b : Bytes) (size : Nat) (later : List ChanEvent), isIdle s = true → s.opened = true →
    1 ≤ size → size ≤ 65533 → b ≠ [] → s.chan.closed = false →
    s.chan.script = (bulkFrames s.addr (chunks size b)).map (fun f => quietEvent [] 0 f.length) ++ later →
    ∃ t, exec (.upload b size) s = .next t ∧ t.result = some (.ok .unit) ∧ t.err = 0 ∧ t.sq.seq = .idle ∧
      t.sq.pos = b.length ∧ t.bulk = b ∧ t.addr = s.addr ∧ t.chan.rxlog = s.chan.rxlog ∧
      t.chan.txlog = s.chan.txlog ++ (bulkFrames s.addr (chunks size b)).flatten ∧
      t.chan.calls = s.chan.calls ++ (bulkFrames s.addr (chunks size b)).map ChanCall.write

/-- R182: the first short write ends UPLOAD: the frames before it and the accepted bytes of the failing one have been
sent, later chunks are not. -/
def Obligations.UploadStopsAtAShortWrite : Prop :=
  ∀ (s : State) (b : Bytes) (size w : Nat) (whole : List Bytes) (f : Bytes) (unsent : List Bytes)
    (later : List ChanEvent), isIdle s = true → s.opened = true → 1 ≤ size → size ≤ 65533 → b ≠ [] →
    s.chan.closed = false → bulkFrames s.addr (chunks size b) = whole ++ f :: unsent → w < f.length →
    s.chan.script = whole.map (fun g => quietEvent [] 0 g.length) ++ quietEvent [] 0 w :: later →
    ∃ t, exec (.upload b size) s = .next t ∧ t.result = some (.error .writeError) ∧ t.err = 2 ∧
      t.sq.seq = .idle ∧ t.chan.script = later ∧ t.chan.txlog = s.chan.txlog ++ whole.flatten ++ f.take w

/-- R193: "A successful UPLOAD of `B` at size `S` whose frames are fed unchanged to a `DOWNLOAD ceil(m/S), S` under the
same address returns `B`." -/
def Obligations.UploadedFramesDownloadToTheBuffer : Prop :=
  ∀ (s t u : State) (b : Bytes) (size : Nat) (frames : List Bytes), isIdle s = true → isIdle u = true →
    s.opened = true → u.opened = true → u.addr = s.addr → b ≠ [] → 1 ≤ size → size ≤ 65533 →
    exec (.upload b size) s = .next t → t.result = some (.ok .unit) →
    t.chan.calls = s.chan.calls ++ frames.map ChanCall.write →
    u.chan.closed = false → u.chan.pending = [] → u.chan.script = frames.map (fun f => quietEvent f f.length 0) →
    EndsWith (exec (.download (ceilDiv b.length size) size) u) (.ok (.bytes b))

/-- R181, R182, R183: the refusals of the bulk operations, in their order. -/
def Obligations.BulkRefusals : Prop :=
  ∀ (s : State) (n size : Nat) (b : Bytes), isIdle s = true →
    let refused (c : BitVec 4) (r : RefuseReason) : State := { s with ref := c, err := 0, result := some (.refused r) }
    (s.opened = false → exec (.download n size) s = .next (refused 1 .notOpen) ∧
      exec (.upload b size) s = .next (refused 1 .notOpen)) ∧
    (s.opened = true → exec (.download 0 size) s = .next (refused 5 .badCount)) ∧
    (s.opened = true → 1 ≤ n → size = 0 ∨ 65533 < size →
      exec (.download n size) s = .next (refused 6 .badPacketSize)) ∧
    (s.opened = true → size = 0 ∨ 65533 < size →
      exec (.upload b size) s = .next (refused 6 .badPacketSize)) ∧
    (s.opened = true → 1 ≤ size → size ≤ 65533 →
      exec (.upload [] size) s = .next (refused 7 .emptyBuffer))

/-! ### Refusals and errors -/

/-- R222, for any state: a refused request "calls no channel primitive and changes no state but `REF` <- the reason's
code and `ERR <- 0`"; the model also records the result that is delivered (R85; log entry 16). It ends with `Refused` of that reason exactly when its domain, OPENED, BUSY or SEQ say so. -/
def Obligations.RefusedRequestChangesOnlyRefAndErr : Prop :=
  ∀ (s t : State) (i : Instr) (r : RefuseReason), isRequest i = true → exec i s = .next t →
    (refusalOf s.busy s.opened s.sq.seq i = some r →
      t = { s with ref := refCode r, err := 0, result := some (.refused r) }) ∧
    (refusalOf s.busy s.opened s.sq.seq i = none → t.result ≠ some (.refused r))

/-- R223, R224: while an operation is in progress every request is refused Busy, whatever else holds; without a
session the six session and bulk operations are refused NotOpen before their operands are looked at, and the three
codec operations are not. -/
def Obligations.BusyAndNotOpenComeFirst : Prop :=
  (∀ (s : State) (i : Instr), isRequest i = true → s.busy = true →
    exec i s = .next { s with ref := 8, err := 0, result := some (.refused .busy) }) ∧
  (∀ (s : State) (p b : Bytes) (et : Byte) (m n size : Nat) (a : Word32), isIdle s = true → s.opened = false →
    ∀ i ∈ [Instr.sendCommand p, .receive et m, .transfer p m, .setAddress a, .download n size, .upload b size],
      exec i s = .next { s with ref := 1, err := 0, result := some (.refused .notOpen) }) ∧
  (∀ (s : State) (p raw : Bytes) (t : Byte) (a : Word32), isIdle s = true →
    ∀ i ∈ [Instr.encode a t p, .decode raw a t, .checksum t p], ¬ EndsWith (exec i s) (.refused .notOpen))

/-- R228, R259: every request ends, with a result, and leaves the block idle with the codes of that result. -/
def Obligations.EveryRequestEnds : Prop :=
  ∀ (s : State) (i : Instr), isRequest i = true → isIdle s = true →
    ∃ t r, exec i s = .next t ∧ t.result = some r ∧ isIdle t = true ∧ codesAgree t = true

/-- R216, R217, R211: what an error leaves: idle machines, BUSY 0, ERR the code, REF 0; ADDR, TIMEOUT and OPENED are
unchanged. -/
def Obligations.ErrorEndsTheOperation : Prop :=
  ∀ (s t : State) (i : Instr) (k : ErrorKind), isRequest i = true →
    refusalOf s.busy s.opened s.sq.seq i = none → exec i s = .next t → t.result = some (.error k) →
    t.tx.txph = .idle ∧ t.rx.rxph = .idle ∧ t.sq.seq = .idle ∧ t.busy = false ∧ t.ref = 0 ∧
    t.addr = s.addr ∧ t.timeout = s.timeout ∧ t.opened = s.opened ∧
    t.err.toNat = match k with
      | .connectionError => 1 | .writeError => 2 | .emptyRead => 3 | .headerMismatch => 4 | .addressMismatch => 5
      | .typeMismatch => 6 | .checksumMismatch => 7 | .shortTransfer => 8 | .statusError => 9

/-- R212, R221: the errors an operation can end with are those of the table; none ends with StatusError. -/
def Obligations.ErrorsByOperation : Prop :=
  ∀ (s t : State) (i : Instr) (k : ErrorKind), isRequest i = true →
    refusalOf s.busy s.opened s.sq.seq i = none → exec i s = .next t → t.result = some (.error k) →
    k ∈ canRaise i ∧ k ≠ .statusError

/-! ### Frames on the link, and the channel -/

/-- A frame that comes in waits in the channel until a read takes it (R34, R220; log entry 3): the four rows, each with its
type's code (R74) and layout (R70). Nothing else changes. -/
def Obligations.FramesWaitInTheChannel : Prop :=
  ∀ (s : State) (a : Word32) (len : Word16) (body : Bytes),
    let waiting (code : Byte) : State :=
      { s with chan := { s.chan with
          pending := s.chan.pending ++ ([0xEF, 0x01] ++ be32 a ++ [code] ++ be16 len ++ body) } }
    exec (.frameCommand a len body) s = .next (waiting 0x01) ∧
    exec (.frameData a len body) s = .next (waiting 0x02) ∧
    exec (.frameAck a len body) s = .next (waiting 0x07) ∧
    exec (.frameEndData a len body) s = .next (waiting 0x08)

/-- R102 to R105: a frame of a type, under ADDR and with a right checksum, that comes in on an empty link and is then
read whole gives its payload to a RECEIVE of that type, and a TypeMismatch to a RECEIVE of another. That a frame row
joins the pending input, and that the next read takes it from there, is how the model reads R34, R220 and R151 (log
entries 3 and 5). -/
def Obligations.FrameIsReadByReceive : Prop :=
  ∀ (s t : State) (ty et : PacketType) (p : Bytes) (m : Nat) (later : List ChanEvent), isIdle s = true →
    s.opened = true → p.length ≤ 65533 → p.length + 11 ≤ m → s.chan.closed = false → s.chan.pending = [] →
    s.chan.script = quietEvent [] m 0 :: later →
    exec (frameInstr ty s.addr (lenField p) (p ++ be16 (checksumOf ty.code p))) s = .next t →
    EndsWith (exec (.receive et.code m) t) (if et = ty then .ok (.bytes p) else .error .typeMismatch)

/-- R151, R34, R57: a read of an open channel returns the oldest pending bytes, at most MAXB and as many as the channel
gives, and removes them; the rest stay pending, in order. RAW holds what was read (R156). -/
def Obligations.ReadTakesTheOldestBytes : Prop :=
  ∀ (s t : State) (et : PacketType) (m : Nat), isIdle s = true → s.opened = true → s.chan.closed = false →
    (nextEvent s.chan).closes = false → exec (.receive et.code m) s = .next t →
    let there := s.chan.pending ++ (nextEvent s.chan).arrive
    let k := min m (nextEvent s.chan).gives
    t.raw = there.take k ∧ t.chan.rxlog = s.chan.rxlog ++ there.take k ∧ t.chan.pending = there.drop k ∧
      t.chan.txlog = s.chan.txlog ∧ t.chan.calls = s.chan.calls ++ [.read m s.timeout]

/-- R61, R157: input that was pending before a TRANSFER has no effect on it. -/
def Obligations.TransferIgnoresStaleInput : Prop :=
  ∀ (s : State) (stale p : Bytes) (elen : Nat), isIdle s = true → s.opened = true → p.length ≤ 65533 →
    exec (.transfer p elen) { s with chan := { s.chan with pending := stale } } = exec (.transfer p elen) s

/-- R256: on a channel closed from outside every read gives ConnectionError or EmptyRead and every write is short,
OPENED stays 1 and no later answer changes it. -/
def Obligations.ClosedChannelFailsEveryExchange : Prop :=
  ∀ (s t : State) (i : Instr), isIdle s = true → s.opened = true → s.chan.closed = true → exec i s = .next t →
    t.opened = true ∧ t.chan.closed = true ∧
    (∀ et m, i = .receive et m → badType et = false →
      t.result = some (.error .connectionError) ∨ t.result = some (.error .emptyRead)) ∧
    (∀ p, i = .sendCommand p → p.length ≤ 65533 → t.result = some (.error .writeError)) ∧
    (∀ p m, i = .transfer p m → p.length ≤ 65533 → t.result = some (.error .writeError)) ∧
    (∀ b size, i = .upload b size → b ≠ [] → 1 ≤ size → size ≤ 65533 → t.result = some (.error .writeError)) ∧
    (∀ n size, i = .download n size → 1 ≤ n → 1 ≤ size → size ≤ 65533 →
      t.result = some (.error .connectionError) ∨ t.result = some (.error .emptyRead))

/-- R159: every operation calls each channel primitive at most as often as its pseudocode shows, and the operations
without one call none. -/
def Obligations.ChannelCallsPerOperation : Prop :=
  ∀ (s t : State) (i : Instr), exec i s = .next t →
    ∃ new, t.chan.calls = s.chan.calls ++ new ∧
      match i with
      | .openChannel c _ _ => new = [] ∨ new = [.openChannel c]
      | .sendCommand _ => new = [] ∨ ∃ f, new = [.write f]
      | .receive _ m => new = [] ∨ new = [.read m s.timeout]
      | .transfer _ m => new = [] ∨ (∃ f, new = [.flushInput, .flushOutput, .write f]) ∨
          ∃ f, new = [.flushInput, .flushOutput, .write f, .read m s.timeout]
      | .download n size => ∃ k, k ≤ n ∧ new = List.replicate k (.read (size + 11) s.timeout)
      | .upload b size => ∃ fs : List Bytes, fs.length ≤ ceilDiv b.length size ∧ new = fs.map ChanCall.write
      | _ => new = []

/-- R23, R81, R56: whatever the block hands to the channel is a whole frame of R100 under ADDR, of type Command, Data or
EndData, with a legal payload. -/
def Obligations.TransmittedFramesCarryTheSessionAddress : Prop :=
  ∀ (s t : State) (i : Instr) (new : List ChanCall) (f : Bytes), exec i s = .next t →
    t.chan.calls = s.chan.calls ++ new → ChanCall.write f ∈ new →
    ∃ (ty : PacketType) (p : Bytes), ty ≠ .ack ∧ p.length ≤ 65533 ∧ f = wireFrame s.addr ty.code p

/-- R35, R57: what has been sent, read and called stays so, through every step, a reset included. -/
def Obligations.LinkHistoryOnlyGrows : Prop :=
  ∀ s t : State, step s = .next t →
    s.chan.txlog <+: t.chan.txlog ∧ s.chan.rxlog <+: t.chan.rxlog ∧ s.chan.calls <+: t.chan.calls

/-! ### The whole machine -/

/-- R23, R24, R25: ADDR is written by OPEN and SET_ADDRESS only, TIMEOUT and OPENED by OPEN only, and no operation clears
OPENED; no received frame changes any of them. -/
def Obligations.SessionRegistersHaveTheirWriters : Prop :=
  ∀ (s t : State) (i : Instr), exec i s = .next t →
    ((∀ c a tmo, i ≠ .openChannel c a tmo) → (∀ a, i ≠ .setAddress a) → t.addr = s.addr) ∧
    ((∀ c a tmo, i ≠ .openChannel c a tmo) → t.timeout = s.timeout ∧ t.opened = s.opened) ∧
    (s.opened = true → t.opened = true)

/-- What each operation leaves unchanged besides what the equations of the other statements say: DECODE and RECEIVE
write RAW, RXPAY, the receive machine, CSUM and the result registers (R101, R156), TRANSFER those and the transmit
side (R157), DOWNLOAD those of RECEIVE, the sequencer and BULK (R181), UPLOAD the transmit side, the sequencer and
BULK (R182); DECODE does not touch the channel. -/
def Obligations.OperationsWriteOnlyTheirRegisters : Prop :=
  ∀ (s t : State) (i : Instr), isIdle s = true → exec i s = .next t →
    match i with
    | .decode _ _ _ =>
      t = { s with raw := t.raw, rxpay := t.rxpay, rx := t.rx, csum := t.csum, err := t.err, ref := t.ref,
                   result := t.result }
    | .receive _ _ =>
      t = { s with raw := t.raw, rxpay := t.rxpay, rx := t.rx, csum := t.csum, chan := t.chan, err := t.err,
                   ref := t.ref, result := t.result }
    | .transfer _ _ =>
      t = { s with raw := t.raw, rxpay := t.rxpay, rx := t.rx, csum := t.csum, chan := t.chan, err := t.err,
                   ref := t.ref, result := t.result, tx := t.tx, txpay := t.txpay, frame := t.frame }
    | .download _ _ =>
      t = { s with raw := t.raw, rxpay := t.rxpay, rx := t.rx, csum := t.csum, chan := t.chan, err := t.err,
                   ref := t.ref, result := t.result, sq := t.sq, bulk := t.bulk }
    | .upload _ _ =>
      t = { s with tx := t.tx, txpay := t.txpay, frame := t.frame, csum := t.csum, chan := t.chan, err := t.err,
                   ref := t.ref, result := t.result, sq := t.sq, bulk := t.bulk }
    | _ => True

/-- R144, R242: CHECKSUM, ENCODE and DECODE depend on their operands alone, not on any register, the session, the channel
or earlier operations, and leave session and channel alone. -/
def Obligations.CodecOperationsArePure : Prop :=
  ∀ (s u t v : State) (i : Instr), s.busy = false → u.busy = false →
    (∃ ty p, i = .checksum ty p) ∨ (∃ a ty p, i = .encode a ty p) ∨ (∃ raw ea et, i = .decode raw ea et) →
    exec i s = .next t → exec i u = .next v →
    t.result = v.result ∧ t.chan = s.chan ∧ t.addr = s.addr ∧ t.timeout = s.timeout ∧ t.opened = s.opened

/-- R240: "No rule reads an unspecified register before writing it": two states that agree on the session registers,
BUSY, SEQ and the channel, and differ anywhere else, give every request the same result, codes, session and channel;
without a session ADDR and TIMEOUT may differ too ("guarded by `OPENED`"), and every request still has the same result,
codes and channel, and a session that OPEN then begins the same ADDR and TIMEOUT. -/
def Obligations.OperationsIgnoreUnspecifiedRegisters : Prop :=
  (∀ (s u t v : State) (i : Instr), isRequest i = true → sameInterface s u →
    exec i s = .next t → exec i u = .next v → sameOutcome t v) ∧
  (∀ (s u t v : State) (i : Instr), isRequest i = true → s.opened = false → u.opened = false → s.busy = u.busy →
    s.sq.seq = u.sq.seq → s.chan = u.chan → exec i s = .next t → exec i u = .next v →
    t.result = v.result ∧ t.err = v.err ∧ t.ref = v.ref ∧ t.busy = v.busy ∧ t.opened = v.opened ∧ t.chan = v.chan ∧
      (t.opened = true → t.addr = v.addr ∧ t.timeout = v.timeout))

/-- Every step from a state that meets the invariant gives one that meets it: the block is between two operations
(R259), ERR and REF are the codes of the last result (R26, R27), ERR is never 9 (R221), RXERR is legal (R211), and
the byte spaces and PKTSZ are within their bounds (R33, R32). -/
def Obligations.StepKeepsBlockInvariant : Prop :=
  ∀ s t : State, blockInv s = true → step s = .next t → blockInv t = true

/-- R125, R217: when a frame fails validation its payload is discarded, whichever operation read it: RXPAY is empty, and
so it is after an empty payload has ended a download. A RECEIVE that ends with ConnectionError has read no frame. -/
def Obligations.FailedValidationDiscardsThePayload : Prop :=
  ∀ (s t : State) (i : Instr) (k : ErrorKind), isRequest i = true →
    refusalOf s.busy s.opened s.sq.seq i = none → exec i s = .next t → t.result = some (.error k) →
    k ∈ [ErrorKind.emptyRead, .headerMismatch, .addressMismatch, .typeMismatch, .checksumMismatch, .shortTransfer] →
    t.rxpay = []
end

