-- ==== Sys2Proof/Laws/Channel.lean ====
section
/-! SUPPORT. What each channel primitive can do, once (42_transport_session.md R150 to R153, R163). -/

namespace Sys2Proof.Laws

open Sys2Proof.Machine

@[simp] theorem takeEvent_pending (c : Channel) : (takeEvent c).pending = c.pending := by
  unfold takeEvent; split <;> rfl
@[simp] theorem takeEvent_closed (c : Channel) : (takeEvent c).closed = c.closed := by
  unfold takeEvent; split <;> rfl
@[simp] theorem takeEvent_txlog (c : Channel) : (takeEvent c).txlog = c.txlog := by
  unfold takeEvent; split <;> rfl
@[simp] theorem takeEvent_rxlog (c : Channel) : (takeEvent c).rxlog = c.rxlog := by
  unfold takeEvent; split <;> rfl
@[simp] theorem takeEvent_calls (c : Channel) : (takeEvent c).calls = c.calls := by
  unfold takeEvent; split <;> rfl

@[simp] theorem meetEvent_pending (c : Channel) :
    (meetEvent c).pending = c.pending ++ (nextEvent c).arrive := rfl
@[simp] theorem meetEvent_closed (c : Channel) : (meetEvent c).closed = (c.closed || (nextEvent c).closes) := rfl
@[simp] theorem meetEvent_script (c : Channel) : (meetEvent c).script = (takeEvent c).script := rfl
@[simp] theorem meetEvent_draws (c : Channel) : (meetEvent c).draws = (takeEvent c).draws := rfl
@[simp] theorem meetEvent_txlog (c : Channel) : (meetEvent c).txlog = c.txlog := takeEvent_txlog c
@[simp] theorem meetEvent_rxlog (c : Channel) : (meetEvent c).rxlog = c.rxlog := takeEvent_rxlog c
@[simp] theorem meetEvent_calls (c : Channel) : (meetEvent c).calls = c.calls := takeEvent_calls c

/-- R150: the answer of a write is at most the bytes offered. -/
theorem writeCount_le (bs : Bytes) (c : Channel) : writeCount bs c ≤ bs.length := by
  unfold writeCount
  split <;> omega

/-- R256: a write to a closed channel is short. -/
theorem writeCount_lt_of_closed (bs : Bytes) (c : Channel) (hc : c.closed = true) (hb : bs ≠ []) :
    writeCount bs c < bs.length := by
  have := List.length_pos_iff.2 hb
  simp only [writeCount, meetEvent_closed, hc, Bool.true_or, if_true]
  omega

/-- R151: the answer of a read is at most `max` bytes. -/
theorem readAnswer_length (max : Nat) (c : Channel) (bs : Bytes) (h : readAnswer max c = some bs) :
    bs.length ≤ max := by
  unfold readAnswer at h
  repeat' split at h
  all_goals simp at h
  all_goals subst h; simp

/-- R256: a read of a closed channel answers `Closed` or nothing. -/
theorem readAnswer_closed (max : Nat) (c : Channel) (hc : c.closed = true) :
    readAnswer max c = none ∨ readAnswer max c = some [] := by
  simp only [readAnswer, meetEvent_closed, hc, Bool.true_or, if_true]
  split <;> simp

/-- A closed channel stays closed through every primitive but an opening. -/
theorem chanWrite_closed (bs : Bytes) (c : Channel) :
    (chanWrite bs c).closed = (c.closed || (nextEvent c).closes) := rfl
theorem chanRead_closed (m t : Nat) (c : Channel) :
    (chanRead m t c).closed = (c.closed || (nextEvent c).closes) := rfl

@[simp] theorem chanWrite_txlog (bs : Bytes) (c : Channel) :
    (chanWrite bs c).txlog = c.txlog ++ bs.take (writeCount bs c) := rfl
@[simp] theorem chanWrite_rxlog (bs : Bytes) (c : Channel) : (chanWrite bs c).rxlog = c.rxlog := meetEvent_rxlog c
@[simp] theorem chanWrite_calls (bs : Bytes) (c : Channel) : (chanWrite bs c).calls = c.calls ++ [.write bs] := rfl
@[simp] theorem chanRead_txlog (m t : Nat) (c : Channel) : (chanRead m t c).txlog = c.txlog := meetEvent_txlog c
@[simp] theorem chanRead_rxlog (m t : Nat) (c : Channel) :
    (chanRead m t c).rxlog = c.rxlog ++ (readAnswer m c).getD [] := rfl
@[simp] theorem chanRead_calls (m t : Nat) (c : Channel) : (chanRead m t c).calls = c.calls ++ [.read m t] := rfl
@[simp] theorem chanFlushInput_txlog (c : Channel) : (chanFlushInput c).txlog = c.txlog := meetEvent_txlog c
@[simp] theorem chanFlushInput_rxlog (c : Channel) : (chanFlushInput c).rxlog = c.rxlog := meetEvent_rxlog c
@[simp] theorem chanFlushInput_calls (c : Channel) :
    (chanFlushInput c).calls = c.calls ++ [.flushInput] := rfl
@[simp] theorem chanFlushInput_pending (c : Channel) : (chanFlushInput c).pending = [] := rfl
@[simp] theorem chanFlushOutput_txlog (c : Channel) : (chanFlushOutput c).txlog = c.txlog := meetEvent_txlog c
@[simp] theorem chanFlushOutput_rxlog (c : Channel) : (chanFlushOutput c).rxlog = c.rxlog := meetEvent_rxlog c
@[simp] theorem chanFlushOutput_calls (c : Channel) :
    (chanFlushOutput c).calls = c.calls ++ [.flushOutput] := rfl
@[simp] theorem chanOpen_txlog (id : Nat) (c : Channel) : (chanOpen id c).txlog = c.txlog := by
  unfold chanOpen; split <;> simp
@[simp] theorem chanOpen_rxlog (id : Nat) (c : Channel) : (chanOpen id c).rxlog = c.rxlog := by
  unfold chanOpen; split <;> simp
@[simp] theorem chanOpen_calls (id : Nat) (c : Channel) :
    (chanOpen id c).calls = c.calls ++ [.openChannel id] := by
  unfold chanOpen; split <;> simp

/-- A quiet answer to a read of an open channel: the oldest bytes, as many as it gives. -/
theorem readAnswer_quiet (m : Nat) (c : Channel) (bs : Bytes) (g w : Nat) (es : List ChanEvent)
    (hs : c.script = { arrive := bs, closes := false, saysClosed := false, gives := g, accepts := w, opens := true,
                       keeps := true } :: es) (hc : c.closed = false) :
    readAnswer m c = some ((c.pending ++ bs).take (min m g)) := by
  simp [readAnswer, nextEvent, hs, hc]

end Sys2Proof.Laws
end

