-- ==== Sys2Proof/Laws/State.lean ====
section
/-! SUPPORT. What each named update of State does to each field, true by rfl, for simp. -/

namespace Sys2Proof.Laws

open Sys2Proof.Machine

/-! ### accept -/

@[simp] theorem accept_addr (s : State) : (accept s).addr = s.addr := rfl
@[simp] theorem accept_timeout (s : State) : (accept s).timeout = s.timeout := rfl
@[simp] theorem accept_opened (s : State) : (accept s).opened = s.opened := rfl
@[simp] theorem accept_err (s : State) : (accept s).err = s.err := rfl
@[simp] theorem accept_ref (s : State) : (accept s).ref = 0 := rfl
@[simp] theorem accept_busy (s : State) : (accept s).busy = true := rfl
@[simp] theorem accept_csum (s : State) : (accept s).csum = s.csum := rfl
@[simp] theorem accept_tx (s : State) : (accept s).tx = s.tx := rfl
@[simp] theorem accept_rx (s : State) : (accept s).rx = s.rx := rfl
@[simp] theorem accept_sq (s : State) : (accept s).sq = s.sq := rfl
@[simp] theorem accept_txpay (s : State) : (accept s).txpay = s.txpay := rfl
@[simp] theorem accept_raw (s : State) : (accept s).raw = s.raw := rfl
@[simp] theorem accept_rxpay (s : State) : (accept s).rxpay = s.rxpay := rfl
@[simp] theorem accept_bulk (s : State) : (accept s).bulk = s.bulk := rfl
@[simp] theorem accept_frame (s : State) : (accept s).frame = s.frame := rfl
@[simp] theorem accept_chan (s : State) : (accept s).chan = s.chan := rfl
@[simp] theorem accept_result (s : State) : (accept s).result = s.result := rfl
@[simp] theorem accept_inputs (s : State) : (accept s).inputs = s.inputs := rfl

/-! ### refuse -/

@[simp] theorem refuse_addr (r : RefuseReason) (s : State) : (refuse r s).addr = s.addr := rfl
@[simp] theorem refuse_timeout (r : RefuseReason) (s : State) : (refuse r s).timeout = s.timeout := rfl
@[simp] theorem refuse_opened (r : RefuseReason) (s : State) : (refuse r s).opened = s.opened := rfl
@[simp] theorem refuse_err (r : RefuseReason) (s : State) : (refuse r s).err = 0 := rfl
@[simp] theorem refuse_ref (r : RefuseReason) (s : State) : (refuse r s).ref = refCode r := rfl
@[simp] theorem refuse_busy (r : RefuseReason) (s : State) : (refuse r s).busy = s.busy := rfl
@[simp] theorem refuse_csum (r : RefuseReason) (s : State) : (refuse r s).csum = s.csum := rfl
@[simp] theorem refuse_tx (r : RefuseReason) (s : State) : (refuse r s).tx = s.tx := rfl
@[simp] theorem refuse_rx (r : RefuseReason) (s : State) : (refuse r s).rx = s.rx := rfl
@[simp] theorem refuse_sq (r : RefuseReason) (s : State) : (refuse r s).sq = s.sq := rfl
@[simp] theorem refuse_txpay (r : RefuseReason) (s : State) : (refuse r s).txpay = s.txpay := rfl
@[simp] theorem refuse_raw (r : RefuseReason) (s : State) : (refuse r s).raw = s.raw := rfl
@[simp] theorem refuse_rxpay (r : RefuseReason) (s : State) : (refuse r s).rxpay = s.rxpay := rfl
@[simp] theorem refuse_bulk (r : RefuseReason) (s : State) : (refuse r s).bulk = s.bulk := rfl
@[simp] theorem refuse_frame (r : RefuseReason) (s : State) : (refuse r s).frame = s.frame := rfl
@[simp] theorem refuse_chan (r : RefuseReason) (s : State) : (refuse r s).chan = s.chan := rfl
@[simp] theorem refuse_result (r : RefuseReason) (s : State) : (refuse r s).result = some (.refused r) := rfl
@[simp] theorem refuse_inputs (r : RefuseReason) (s : State) : (refuse r s).inputs = s.inputs := rfl

/-! ### idleMachines -/

@[simp] theorem idleMachines_addr (s : State) : (idleMachines s).addr = s.addr := rfl
@[simp] theorem idleMachines_timeout (s : State) : (idleMachines s).timeout = s.timeout := rfl
@[simp] theorem idleMachines_opened (s : State) : (idleMachines s).opened = s.opened := rfl
@[simp] theorem idleMachines_err (s : State) : (idleMachines s).err = s.err := rfl
@[simp] theorem idleMachines_ref (s : State) : (idleMachines s).ref = s.ref := rfl
@[simp] theorem idleMachines_busy (s : State) : (idleMachines s).busy = s.busy := rfl
@[simp] theorem idleMachines_csum (s : State) : (idleMachines s).csum = s.csum := rfl
@[simp] theorem idleMachines_tx (s : State) : (idleMachines s).tx = { s.tx with txph := .idle } := rfl
@[simp] theorem idleMachines_rx (s : State) : (idleMachines s).rx = { s.rx with rxph := .idle } := rfl
@[simp] theorem idleMachines_sq (s : State) : (idleMachines s).sq = { s.sq with seq := .idle } := rfl
@[simp] theorem idleMachines_txpay (s : State) : (idleMachines s).txpay = s.txpay := rfl
@[simp] theorem idleMachines_raw (s : State) : (idleMachines s).raw = s.raw := rfl
@[simp] theorem idleMachines_rxpay (s : State) : (idleMachines s).rxpay = s.rxpay := rfl
@[simp] theorem idleMachines_bulk (s : State) : (idleMachines s).bulk = s.bulk := rfl
@[simp] theorem idleMachines_frame (s : State) : (idleMachines s).frame = s.frame := rfl
@[simp] theorem idleMachines_chan (s : State) : (idleMachines s).chan = s.chan := rfl
@[simp] theorem idleMachines_result (s : State) : (idleMachines s).result = s.result := rfl
@[simp] theorem idleMachines_inputs (s : State) : (idleMachines s).inputs = s.inputs := rfl

/-! ### succeed -/

@[simp] theorem succeed_addr (v : OpValue) (s : State) : (succeed v s).addr = s.addr := rfl
@[simp] theorem succeed_timeout (v : OpValue) (s : State) : (succeed v s).timeout = s.timeout := rfl
@[simp] theorem succeed_opened (v : OpValue) (s : State) : (succeed v s).opened = s.opened := rfl
@[simp] theorem succeed_err (v : OpValue) (s : State) : (succeed v s).err = 0 := rfl
@[simp] theorem succeed_ref (v : OpValue) (s : State) : (succeed v s).ref = s.ref := rfl
@[simp] theorem succeed_busy (v : OpValue) (s : State) : (succeed v s).busy = false := rfl
@[simp] theorem succeed_csum (v : OpValue) (s : State) : (succeed v s).csum = s.csum := rfl
@[simp] theorem succeed_tx (v : OpValue) (s : State) : (succeed v s).tx = { s.tx with txph := .idle } := rfl
@[simp] theorem succeed_rx (v : OpValue) (s : State) : (succeed v s).rx = { s.rx with rxph := .idle } := rfl
@[simp] theorem succeed_sq (v : OpValue) (s : State) : (succeed v s).sq = { s.sq with seq := .idle } := rfl
@[simp] theorem succeed_txpay (v : OpValue) (s : State) : (succeed v s).txpay = s.txpay := rfl
@[simp] theorem succeed_raw (v : OpValue) (s : State) : (succeed v s).raw = s.raw := rfl
@[simp] theorem succeed_rxpay (v : OpValue) (s : State) : (succeed v s).rxpay = s.rxpay := rfl
@[simp] theorem succeed_bulk (v : OpValue) (s : State) : (succeed v s).bulk = s.bulk := rfl
@[simp] theorem succeed_frame (v : OpValue) (s : State) : (succeed v s).frame = s.frame := rfl
@[simp] theorem succeed_chan (v : OpValue) (s : State) : (succeed v s).chan = s.chan := rfl
@[simp] theorem succeed_result (v : OpValue) (s : State) : (succeed v s).result = some (.ok v) := rfl
@[simp] theorem succeed_inputs (v : OpValue) (s : State) : (succeed v s).inputs = s.inputs := rfl

/-! ### raise -/

@[simp] theorem raise_addr (k : ErrorKind) (s : State) : (raise k s).addr = s.addr := rfl
@[simp] theorem raise_timeout (k : ErrorKind) (s : State) : (raise k s).timeout = s.timeout := rfl
@[simp] theorem raise_opened (k : ErrorKind) (s : State) : (raise k s).opened = s.opened := rfl
@[simp] theorem raise_err (k : ErrorKind) (s : State) : (raise k s).err = errCode k := rfl
@[simp] theorem raise_ref (k : ErrorKind) (s : State) : (raise k s).ref = s.ref := rfl
@[simp] theorem raise_busy (k : ErrorKind) (s : State) : (raise k s).busy = false := rfl
@[simp] theorem raise_csum (k : ErrorKind) (s : State) : (raise k s).csum = s.csum := rfl
@[simp] theorem raise_tx (k : ErrorKind) (s : State) : (raise k s).tx = { s.tx with txph := .idle } := rfl
@[simp] theorem raise_rx (k : ErrorKind) (s : State) : (raise k s).rx = { s.rx with rxph := .idle } := rfl
@[simp] theorem raise_sq (k : ErrorKind) (s : State) : (raise k s).sq = { s.sq with seq := .idle } := rfl
@[simp] theorem raise_txpay (k : ErrorKind) (s : State) : (raise k s).txpay = s.txpay := rfl
@[simp] theorem raise_raw (k : ErrorKind) (s : State) : (raise k s).raw = s.raw := rfl
@[simp] theorem raise_rxpay (k : ErrorKind) (s : State) : (raise k s).rxpay = s.rxpay := rfl
@[simp] theorem raise_bulk (k : ErrorKind) (s : State) : (raise k s).bulk = s.bulk := rfl
@[simp] theorem raise_frame (k : ErrorKind) (s : State) : (raise k s).frame = s.frame := rfl
@[simp] theorem raise_chan (k : ErrorKind) (s : State) : (raise k s).chan = s.chan := rfl
@[simp] theorem raise_result (k : ErrorKind) (s : State) : (raise k s).result = some (.error k) := rfl
@[simp] theorem raise_inputs (k : ErrorKind) (s : State) : (raise k s).inputs = s.inputs := rfl

/-! ### arrive -/

@[simp] theorem arrive_addr (bs : Bytes) (s : State) : (arrive bs s).addr = s.addr := rfl
@[simp] theorem arrive_timeout (bs : Bytes) (s : State) : (arrive bs s).timeout = s.timeout := rfl
@[simp] theorem arrive_opened (bs : Bytes) (s : State) : (arrive bs s).opened = s.opened := rfl
@[simp] theorem arrive_err (bs : Bytes) (s : State) : (arrive bs s).err = s.err := rfl
@[simp] theorem arrive_ref (bs : Bytes) (s : State) : (arrive bs s).ref = s.ref := rfl
@[simp] theorem arrive_busy (bs : Bytes) (s : State) : (arrive bs s).busy = s.busy := rfl
@[simp] theorem arrive_csum (bs : Bytes) (s : State) : (arrive bs s).csum = s.csum := rfl
@[simp] theorem arrive_tx (bs : Bytes) (s : State) : (arrive bs s).tx = s.tx := rfl
@[simp] theorem arrive_rx (bs : Bytes) (s : State) : (arrive bs s).rx = s.rx := rfl
@[simp] theorem arrive_sq (bs : Bytes) (s : State) : (arrive bs s).sq = s.sq := rfl
@[simp] theorem arrive_txpay (bs : Bytes) (s : State) : (arrive bs s).txpay = s.txpay := rfl
@[simp] theorem arrive_raw (bs : Bytes) (s : State) : (arrive bs s).raw = s.raw := rfl
@[simp] theorem arrive_rxpay (bs : Bytes) (s : State) : (arrive bs s).rxpay = s.rxpay := rfl
@[simp] theorem arrive_bulk (bs : Bytes) (s : State) : (arrive bs s).bulk = s.bulk := rfl
@[simp] theorem arrive_frame (bs : Bytes) (s : State) : (arrive bs s).frame = s.frame := rfl
@[simp] theorem arrive_chan (bs : Bytes) (s : State) : (arrive bs s).chan = { s.chan with pending := s.chan.pending ++ bs } := rfl
@[simp] theorem arrive_result (bs : Bytes) (s : State) : (arrive bs s).result = s.result := rfl
@[simp] theorem arrive_inputs (bs : Bytes) (s : State) : (arrive bs s).inputs = s.inputs := rfl

/-! ### closeChannel -/

@[simp] theorem closeChannel_addr (s : State) : (closeChannel s).addr = s.addr := rfl
@[simp] theorem closeChannel_timeout (s : State) : (closeChannel s).timeout = s.timeout := rfl
@[simp] theorem closeChannel_opened (s : State) : (closeChannel s).opened = s.opened := rfl
@[simp] theorem closeChannel_err (s : State) : (closeChannel s).err = s.err := rfl
@[simp] theorem closeChannel_ref (s : State) : (closeChannel s).ref = s.ref := rfl
@[simp] theorem closeChannel_busy (s : State) : (closeChannel s).busy = s.busy := rfl
@[simp] theorem closeChannel_csum (s : State) : (closeChannel s).csum = s.csum := rfl
@[simp] theorem closeChannel_tx (s : State) : (closeChannel s).tx = s.tx := rfl
@[simp] theorem closeChannel_rx (s : State) : (closeChannel s).rx = s.rx := rfl
@[simp] theorem closeChannel_sq (s : State) : (closeChannel s).sq = s.sq := rfl
@[simp] theorem closeChannel_txpay (s : State) : (closeChannel s).txpay = s.txpay := rfl
@[simp] theorem closeChannel_raw (s : State) : (closeChannel s).raw = s.raw := rfl
@[simp] theorem closeChannel_rxpay (s : State) : (closeChannel s).rxpay = s.rxpay := rfl
@[simp] theorem closeChannel_bulk (s : State) : (closeChannel s).bulk = s.bulk := rfl
@[simp] theorem closeChannel_frame (s : State) : (closeChannel s).frame = s.frame := rfl
@[simp] theorem closeChannel_chan (s : State) : (closeChannel s).chan = { s.chan with closed := true } := rfl
@[simp] theorem closeChannel_result (s : State) : (closeChannel s).result = s.result := rfl
@[simp] theorem closeChannel_inputs (s : State) : (closeChannel s).inputs = s.inputs := rfl

/-! ### csumClear -/

@[simp] theorem csumClear_addr (s : State) : (csumClear s).addr = s.addr := rfl
@[simp] theorem csumClear_timeout (s : State) : (csumClear s).timeout = s.timeout := rfl
@[simp] theorem csumClear_opened (s : State) : (csumClear s).opened = s.opened := rfl
@[simp] theorem csumClear_err (s : State) : (csumClear s).err = s.err := rfl
@[simp] theorem csumClear_ref (s : State) : (csumClear s).ref = s.ref := rfl
@[simp] theorem csumClear_busy (s : State) : (csumClear s).busy = s.busy := rfl
@[simp] theorem csumClear_csum (s : State) : (csumClear s).csum = 0 := rfl
@[simp] theorem csumClear_tx (s : State) : (csumClear s).tx = s.tx := rfl
@[simp] theorem csumClear_rx (s : State) : (csumClear s).rx = s.rx := rfl
@[simp] theorem csumClear_sq (s : State) : (csumClear s).sq = s.sq := rfl
@[simp] theorem csumClear_txpay (s : State) : (csumClear s).txpay = s.txpay := rfl
@[simp] theorem csumClear_raw (s : State) : (csumClear s).raw = s.raw := rfl
@[simp] theorem csumClear_rxpay (s : State) : (csumClear s).rxpay = s.rxpay := rfl
@[simp] theorem csumClear_bulk (s : State) : (csumClear s).bulk = s.bulk := rfl
@[simp] theorem csumClear_frame (s : State) : (csumClear s).frame = s.frame := rfl
@[simp] theorem csumClear_chan (s : State) : (csumClear s).chan = s.chan := rfl
@[simp] theorem csumClear_result (s : State) : (csumClear s).result = s.result := rfl
@[simp] theorem csumClear_inputs (s : State) : (csumClear s).inputs = s.inputs := rfl

/-! ### csumAdd -/

@[simp] theorem csumAdd_addr (b : Byte) (s : State) : (csumAdd b s).addr = s.addr := rfl
@[simp] theorem csumAdd_timeout (b : Byte) (s : State) : (csumAdd b s).timeout = s.timeout := rfl
@[simp] theorem csumAdd_opened (b : Byte) (s : State) : (csumAdd b s).opened = s.opened := rfl
@[simp] theorem csumAdd_err (b : Byte) (s : State) : (csumAdd b s).err = s.err := rfl
@[simp] theorem csumAdd_ref (b : Byte) (s : State) : (csumAdd b s).ref = s.ref := rfl
@[simp] theorem csumAdd_busy (b : Byte) (s : State) : (csumAdd b s).busy = s.busy := rfl
@[simp] theorem csumAdd_csum (b : Byte) (s : State) : (csumAdd b s).csum = addByte s.csum b := rfl
@[simp] theorem csumAdd_tx (b : Byte) (s : State) : (csumAdd b s).tx = s.tx := rfl
@[simp] theorem csumAdd_rx (b : Byte) (s : State) : (csumAdd b s).rx = s.rx := rfl
@[simp] theorem csumAdd_sq (b : Byte) (s : State) : (csumAdd b s).sq = s.sq := rfl
@[simp] theorem csumAdd_txpay (b : Byte) (s : State) : (csumAdd b s).txpay = s.txpay := rfl
@[simp] theorem csumAdd_raw (b : Byte) (s : State) : (csumAdd b s).raw = s.raw := rfl
@[simp] theorem csumAdd_rxpay (b : Byte) (s : State) : (csumAdd b s).rxpay = s.rxpay := rfl
@[simp] theorem csumAdd_bulk (b : Byte) (s : State) : (csumAdd b s).bulk = s.bulk := rfl
@[simp] theorem csumAdd_frame (b : Byte) (s : State) : (csumAdd b s).frame = s.frame := rfl
@[simp] theorem csumAdd_chan (b : Byte) (s : State) : (csumAdd b s).chan = s.chan := rfl
@[simp] theorem csumAdd_result (b : Byte) (s : State) : (csumAdd b s).result = s.result := rfl
@[simp] theorem csumAdd_inputs (b : Byte) (s : State) : (csumAdd b s).inputs = s.inputs := rfl

/-! ### withInputs -/

@[simp] theorem withInputs_addr (s : State) (l : List Input) : (s.withInputs l).addr = s.addr := rfl
@[simp] theorem withInputs_timeout (s : State) (l : List Input) : (s.withInputs l).timeout = s.timeout := rfl
@[simp] theorem withInputs_opened (s : State) (l : List Input) : (s.withInputs l).opened = s.opened := rfl
@[simp] theorem withInputs_err (s : State) (l : List Input) : (s.withInputs l).err = s.err := rfl
@[simp] theorem withInputs_ref (s : State) (l : List Input) : (s.withInputs l).ref = s.ref := rfl
@[simp] theorem withInputs_busy (s : State) (l : List Input) : (s.withInputs l).busy = s.busy := rfl
@[simp] theorem withInputs_csum (s : State) (l : List Input) : (s.withInputs l).csum = s.csum := rfl
@[simp] theorem withInputs_tx (s : State) (l : List Input) : (s.withInputs l).tx = s.tx := rfl
@[simp] theorem withInputs_rx (s : State) (l : List Input) : (s.withInputs l).rx = s.rx := rfl
@[simp] theorem withInputs_sq (s : State) (l : List Input) : (s.withInputs l).sq = s.sq := rfl
@[simp] theorem withInputs_txpay (s : State) (l : List Input) : (s.withInputs l).txpay = s.txpay := rfl
@[simp] theorem withInputs_raw (s : State) (l : List Input) : (s.withInputs l).raw = s.raw := rfl
@[simp] theorem withInputs_rxpay (s : State) (l : List Input) : (s.withInputs l).rxpay = s.rxpay := rfl
@[simp] theorem withInputs_bulk (s : State) (l : List Input) : (s.withInputs l).bulk = s.bulk := rfl
@[simp] theorem withInputs_frame (s : State) (l : List Input) : (s.withInputs l).frame = s.frame := rfl
@[simp] theorem withInputs_chan (s : State) (l : List Input) : (s.withInputs l).chan = s.chan := rfl
@[simp] theorem withInputs_result (s : State) (l : List Input) : (s.withInputs l).result = s.result := rfl
@[simp] theorem withInputs_inputs (s : State) (l : List Input) : (s.withInputs l).inputs = l := rfl

end Sys2Proof.Laws
end

