-- ==== Sys2Proof/Laws/Checksum.lean ====
section
/-! SUPPORT. The accumulator and the checksum function are one definition (41_checksum.md R141 to R143). -/

namespace Sys2Proof.Laws

open Sys2Proof.Machine

/-- The accumulator after a byte sequence, as a value. -/
def addBytes : Word16 → Bytes → Word16
  | a, [] => a
  | a, b :: bs => addBytes (addByte a b) bs

theorem addByte_eq (a : Word16) (b : Byte) : addByte a b = a + BitVec.ofNat 16 b.toNat := by
  unfold addByte
  congr 1
  apply BitVec.eq_of_toNat_eq
  have := b.isLt
  simp

theorem addBytes_eq (bs : Bytes) : ∀ a : Word16, addBytes a bs = a + BitVec.ofNat 16 (byteSum bs) := by
  induction bs with
  | nil => intro a; simp [addBytes, byteSum]
  | cons b bs ih =>
    intro a
    have e : byteSum (b :: bs) = b.toNat + byteSum bs := rfl
    rw [addBytes, ih, addByte_eq, e, BitVec.ofNat_add, BitVec.add_assoc]

theorem addBytes_append (xs ys : Bytes) : ∀ a : Word16, addBytes a (xs ++ ys) = addBytes (addBytes a xs) ys := by
  induction xs with
  | nil => intro a; rfl
  | cons b bs ih => intro a; exact ih (addByte a b)

/-- R142: the wire order (type, length bytes, payload) gives R140's sum. -/
theorem addBytes_wire_order (t : Byte) (p : Bytes) :
    addBytes 0 (t :: be16 (lenField p) ++ p) = checksumOf t p := by
  have e : byteSum (t :: be16 (lenField p) ++ p) = byteSum (be16 (lenField p)) + t.toNat + byteSum p := by
    simp only [byteSum, List.cons_append, List.map_cons, List.map_append, List.sum_cons, List.sum_append]
    omega
  rw [addBytes_eq, e, checksumOf]
  exact BitVec.zero_add _

theorem csumAddAll_eq (bs : Bytes) : ∀ s : State, csumAddAll bs s = { s with csum := addBytes s.csum bs } := by
  induction bs with
  | nil => intro s; rfl
  | cons b bs ih => intro s; rw [csumAddAll, ih]; rfl

/-- CHECKSUM's use of the accumulator changes CSUM alone, to R140's value. -/
theorem accumulate_eq (t : Byte) (p : Bytes) (s : State) :
    accumulate t p s = { s with csum := checksumOf t p } := by
  rw [accumulate, csumAddAll_eq, csumAddAll_eq, ← addBytes_wire_order, List.cons_append, addBytes, addBytes_append]
  rfl

end Sys2Proof.Laws
end

