-- ==== Sys2Proof/Laws/Encoding.lean ====
section
/-! SUPPORT. Each piece of the encodings read back: byte order, packet types, natural numbers, byte sequences, the
frame header. -/

namespace Sys2Proof.Laws

/-! ### Byte order -/

theorem fromBe16_toNat (a b : Byte) : (fromBe16 a b).toNat = 256 * a.toNat + b.toNat := by
  have := b.isLt
  simp only [fromBe16, BitVec.toNat_append]
  rw [← Nat.shiftLeft_add_eq_or_of_lt (by omega), Nat.shiftLeft_eq]
  omega

theorem fromBe16_be16 (v : Word16) : fromBe16 (v.extractLsb' 8 8) (v.extractLsb' 0 8) = v := by
  apply BitVec.eq_of_toNat_eq
  have := v.isLt
  simp only [fromBe16_toNat, BitVec.extractLsb'_toNat, Nat.shiftRight_eq_div_pow]
  omega

theorem fromBe32_toNat (a b c d : Byte) :
    (fromBe32 a b c d).toNat = 16777216 * a.toNat + 65536 * b.toNat + 256 * c.toNat + d.toNat := by
  have := b.isLt; have := c.isLt; have := d.isLt
  simp only [fromBe32, BitVec.toNat_append]
  rw [← Nat.shiftLeft_add_eq_or_of_lt (by omega), ← Nat.shiftLeft_add_eq_or_of_lt (by omega),
    ← Nat.shiftLeft_add_eq_or_of_lt (by omega)]
  simp only [Nat.shiftLeft_eq]
  omega

theorem fromBe32_be32 (v : Word32) :
    fromBe32 (v.extractLsb' 24 8) (v.extractLsb' 16 8) (v.extractLsb' 8 8) (v.extractLsb' 0 8) = v := by
  apply BitVec.eq_of_toNat_eq
  have := v.isLt
  simp only [fromBe32_toNat, BitVec.extractLsb'_toNat, Nat.shiftRight_eq_div_pow]
  omega

/-- The two bytes of a 16-bit value, from the bytes it was read from. -/
theorem be16_fromBe16 (a b : Byte) : be16 (fromBe16 a b) = [a, b] := by
  have ha := a.isLt; have hb := b.isLt
  simp only [be16, List.cons.injEq, and_true]
  constructor <;> apply BitVec.eq_of_toNat_eq <;>
    simp only [fromBe16_toNat, BitVec.extractLsb'_toNat, Nat.shiftRight_eq_div_pow] <;> omega

@[simp] theorem be16_length (v : Word16) : (be16 v).length = 2 := rfl
@[simp] theorem be32_length (v : Word32) : (be32 v).length = 4 := rfl
@[simp] theorem frameHeader_length (a : Word32) (t : Byte) (l : Word16) : (frameHeader a t l).length = 9 := rfl

/-! ### Packet types -/

@[simp] theorem ofCode?_code (t : PacketType) : PacketType.ofCode? t.code = some t := by
  cases t <;> decide

theorem ofCode?_eq_some {c : Byte} {t : PacketType} (h : PacketType.ofCode? c = some t) : c = t.code := by
  unfold PacketType.ofCode? at h
  repeat' split at h
  all_goals simp_all [PacketType.code]
  all_goals subst h; rfl

/-! ### Natural numbers and byte sequences -/

theorem takeNat_encodeNatFuel (rest : Bytes) :
    ∀ fuel n, n ≤ fuel → takeNat (encodeNatFuel fuel n ++ rest) = some (n, rest) := by
  intro fuel
  induction fuel with
  | zero =>
    intro n h
    obtain rfl : n = 0 := by omega
    simp [encodeNatFuel, takeNat]
  | succ fuel ih =>
    intro n h
    rw [encodeNatFuel]
    split
    · rename_i hn
      have e : n % 256 = n := Nat.mod_eq_of_lt (by omega)
      simp [takeNat, e, hn]
    · rename_i hn
      have e : (128 + n % 128) % 256 = 128 + n % 128 := Nat.mod_eq_of_lt (by omega)
      rw [List.cons_append, takeNat, ih (n / 128) (by omega)]
      simp only [BitVec.toNat_ofNat, Nat.reducePow, e]
      rw [if_neg (by omega)]
      simp only [Option.some.injEq, Prod.mk.injEq, and_true]
      omega

@[simp] theorem takeNat_encodeNat (n : Nat) (rest : Bytes) : takeNat (encodeNat n ++ rest) = some (n, rest) :=
  takeNat_encodeNatFuel rest n n (le_refl n)

@[simp] theorem takeBytes_encodeBytes (p rest : Bytes) : takeBytes (encodeBytes p ++ rest) = some (p, rest) := by
  simp [takeBytes, encodeBytes, List.append_assoc]

@[simp] theorem takeWord32_be32 (a : Word32) (rest : Bytes) : takeWord32 (be32 a ++ rest) = some (a, rest) := by
  simp [takeWord32, be32, fromBe32_be32]

@[simp] theorem takeByte_cons (b : Byte) (rest : Bytes) : takeByte (b :: rest) = some (b, rest) := rfl

/-! ### Frames -/

theorem decodeFrame_header (a : Word32) (t : Byte) (len : Word16) (rest : Bytes) :
    decodeFrame (frameHeader a t len ++ rest) = decodeFrameBody a t len rest := by
  simp [decodeFrame, frameHeader, be32, be16, fromBe32_be32, fromBe16_be16]

end Sys2Proof.Laws
end

