-- ==== Sys2Proof/Laws/Receive.lean ====
section
/-! SUPPORT. What the receive machine does, once: at the end of a read it reports DECODE's outcome
(40_frame_codec.md R108, R117 to R125 against R101), and it writes its own registers, CSUM, RAW and RXPAY alone. -/

namespace Sys2Proof.Laws

open Sys2Proof.Machine

/-! ### The shift register -/

theorem shiftIn_toNat (sh : Word32) (b : Byte) :
    (shiftIn sh b).toNat = (sh.toNat * 256) % 4294967296 + b.toNat := by
  have hb := b.isLt
  have hs := sh.isLt
  have e : (sh <<< 8).toNat = (sh.toNat % 16777216) <<< 8 := by
    simp only [BitVec.toNat_shiftLeft, Nat.shiftLeft_eq, Nat.reducePow]
    omega
  have eb : b.toNat % 2 ^ 32 = b.toNat := Nat.mod_eq_of_lt (by omega)
  rw [shiftIn, BitVec.toNat_or, e, BitVec.toNat_setWidth, eb,
    ← Nat.shiftLeft_add_eq_or_of_lt (by omega), Nat.shiftLeft_eq]
  omega

theorem shiftIn_two (sh : Word32) (a b : Byte) :
    (shiftIn (shiftIn sh a) b).extractLsb' 0 16 = fromBe16 a b := by
  apply BitVec.eq_of_toNat_eq
  have := a.isLt; have := b.isLt; have := sh.isLt
  simp only [BitVec.extractLsb'_toNat, Nat.shiftRight_zero, shiftIn_toNat, fromBe16_toNat]
  omega

theorem shiftIn_four (sh : Word32) (a b c d : Byte) :
    shiftIn (shiftIn (shiftIn (shiftIn sh a) b) c) d = fromBe32 a b c d := by
  apply BitVec.eq_of_toNat_eq
  have := a.isLt; have := b.isLt; have := c.isLt; have := d.isLt; have := sh.isLt
  simp only [shiftIn_toNat, fromBe32_toNat]
  omega

theorem fromBe16_eq_start (a b : Byte) : fromBe16 a b = 0xEF01 ↔ a = 0xEF ∧ b = 0x01 := by
  have := a.isLt; have := b.isLt
  simp only [← BitVec.toNat_inj, fromBe16_toNat, BitVec.ofNat_eq_ofNat, BitVec.toNat_ofNat, Nat.reducePow]
  omega

/-! ### Codes -/

@[simp] theorem errKind_errCode (k : ErrorKind) : errKind (errCode k) = k := by cases k <;> rfl

/-! ### Phases -/

/-- R124: once the verdict is latched, further bytes change nothing. -/
theorem rxFeed_settled (bs : Bytes) : ∀ s : State, s.rx.got = true → s.rx.rxph = .fail ∨ s.rx.rxph = .done →
    rxFeed bs s = s := by
  induction bs with
  | nil => intro s _ _; rfl
  | cons b bs ih =>
    intro s hg h
    have hm : rxNext s.csum b s.rx = s.rx := by
      rcases h with h | h <;> simp only [rxNext, h] <;> rw [← hg, ← h]
    have e : rxStep b s = s := by
      rcases h with h | h <;> simp [rxStep, hm, rxCovered, h]
    rw [rxFeed, e, ih s hg h]

/-- R123, R125: the checksum phase, from its first byte. -/
theorem rxOutcome_ck (r : Bytes) (s : State) (hg : s.rx.got = true) (hph : s.rx.rxph = .ck)
    (hi : s.rx.rxi = 0) :
    rxOutcome (rxFeed r s) =
      if r.length < 2 then .error .headerMismatch
      else if fromBe16 (memReadByte r 0) (memReadByte r 1) ≠ s.csum then .error .checksumMismatch
      else .ok s.rxpay := by
  match r with
  | [] => simp [rxFeed, rxOutcome, hg, hph]
  | [a] => simp [rxFeed, rxStep, rxNext, rxOutcome, hph, hi]
  | a :: b :: more =>
    rw [rxFeed, rxFeed, rxFeed_settled]
    · by_cases h : fromBe16 a b = s.csum <;>
        simp [rxStep, rxNext, rxOutcome, rxCovered, rxFail, hph, hi, shiftIn_two, memReadByte, h]
    · by_cases h : fromBe16 a b = s.csum <;>
        simp [rxStep, rxNext, rxCovered, rxFail, hph, hi, shiftIn_two, h]
    · by_cases h : fromBe16 a b = s.csum <;>
        simp [rxStep, rxNext, rxCovered, rxFail, hph, hi, shiftIn_two, h]

/-- R122: one payload byte. -/
theorem rxStep_pay (b : Byte) (s : State) (hg : s.rx.got = true) (hph : s.rx.rxph = .pay) :
    rxStep b s =
      { s with
        rx := if s.rx.rxcnt + 1 = s.rx.rxlen - 2 then
            { s.rx with rxcnt := s.rx.rxcnt + 1, rxi := 0, rxph := .ck }
          else { s.rx with rxcnt := s.rx.rxcnt + 1 }
        csum := addByte s.csum b
        rxpay := s.rxpay ++ [b] } := by
  simp [rxStep, rxNext, rxCovered, hph, ← hg]

/-- R122: the payload phase, when the length field asks for `q` exactly. -/
theorem rxFeed_pay_all (len : Word16) (hlen : 2 ≤ len.toNat) (q : Bytes) :
    ∀ (done : Nat) (s : State), q ≠ [] → done + q.length + 2 = len.toNat → s.rx.got = true →
      s.rx.rxph = .pay → s.rx.rxlen = len → s.rx.rxcnt = BitVec.ofNat 16 done →
      rxFeed q s =
        { s with
          rx := { s.rx with rxcnt := BitVec.ofNat 16 (done + q.length), rxi := 0, rxph := .ck }
          csum := addBytes s.csum q
          rxpay := s.rxpay ++ q } := by
  induction q with
  | nil => intro done s h; exact absurd rfl h
  | cons b q ih =>
    intro done s _ hl hg hph hrl hcnt
    have hlt := len.isLt
    rw [List.length_cons] at hl
    have hcond : (s.rx.rxcnt + 1 = s.rx.rxlen - 2) ↔ q = [] := by
      rw [hcnt, hrl, ← BitVec.toNat_inj, ← List.length_eq_zero_iff]
      simp only [BitVec.toNat_add, BitVec.toNat_ofNat, BitVec.toNat_sub, Nat.reducePow, BitVec.ofNat_eq_ofNat]
      omega
    have hc : s.rx.rxcnt + 1 = BitVec.ofNat 16 (done + 1) := by
      rw [hcnt, ← BitVec.toNat_inj]; simp [BitVec.toNat_add]
    rw [rxFeed, rxStep_pay b s hg hph]
    by_cases hq : q = []
    · subst hq
      rw [if_pos (hcond.2 rfl), hc]
      rfl
    · rw [if_neg (mt hcond.1 hq),
        ih (done + 1) _ hq (by omega) (by exact hg) (by exact hph) (by exact hrl) (by exact hc)]
      simp [addBytes, Nat.add_assoc, Nat.add_comm 1]

/-- R122, R125: the payload phase, when the read ends inside the payload. -/
theorem rxFeed_pay_short (len : Word16) (q : Bytes) :
    ∀ (done : Nat) (s : State), done + q.length + 2 < len.toNat → s.rx.got = true → s.rx.rxph = .pay →
      s.rx.rxlen = len → s.rx.rxcnt = BitVec.ofNat 16 done →
      (rxFeed q s).rx.got = true ∧ (rxFeed q s).rx.rxph = .pay := by
  induction q with
  | nil => intro done s _ hg hph _ _; exact ⟨hg, hph⟩
  | cons b q ih =>
    intro done s hl hg hph hrl hcnt
    have hlt := len.isLt
    rw [List.length_cons] at hl
    have hcond : ¬ (s.rx.rxcnt + 1 = s.rx.rxlen - 2) := by
      rw [hcnt, hrl, ← BitVec.toNat_inj]
      simp only [BitVec.toNat_add, BitVec.toNat_ofNat, BitVec.toNat_sub, Nat.reducePow, BitVec.ofNat_eq_ofNat]
      omega
    have hc : s.rx.rxcnt + 1 = BitVec.ofNat 16 (done + 1) := by
      rw [hcnt, ← BitVec.toNat_inj]; simp [BitVec.toNat_add]
    rw [rxFeed, rxStep_pay b s hg hph, if_neg hcond]
    exact ih (done + 1) _ (by omega) hg hph hrl hc

/-- What R101's steps 9 to 11 say of the bytes after the header. -/
def validateRest (t : Byte) (len : Nat) (rest : Bytes) : Except ErrorKind Bytes :=
  if rest.length < len then .error .headerMismatch
  else if fromBe16 (memReadByte rest (len - 2)) (memReadByte rest (len - 1)) ≠ checksumOf t (rest.take (len - 2)) then
    .error .checksumMismatch
  else .ok (rest.take (len - 2))

theorem lenField_take (len : Word16) (hlen : 2 ≤ len.toNat) (rest : Bytes) (h : len.toNat ≤ rest.length) :
    lenField (rest.take (len.toNat - 2)) = len := by
  have := len.isLt
  rw [lenField, List.length_take, ← BitVec.toNat_inj, BitVec.toNat_ofNat]
  omega

/-- R121 to R125: the machine after the length field, against R101's steps 9 to 11. -/
theorem rxOutcome_body (t : Byte) (len : Word16) (hlen : 2 ≤ len.toNat) (rest : Bytes) (s : State)
    (hg : s.rx.got = true) (hi : s.rx.rxi = 0) (hrl : s.rx.rxlen = len) (hcnt : s.rx.rxcnt = 0)
    (hpay : s.rxpay = []) (hcs : s.csum = addBytes 0 (t :: be16 len))
    (hph : s.rx.rxph = if len = 2 then .ck else .pay) :
    rxOutcome (rxFeed rest s) = validateRest t len.toNat rest := by
  have hlt := len.isLt
  have htwo : len = 2 ↔ len.toNat = 2 := by
    rw [← BitVec.toNat_inj]; rfl
  have hsum (q : Bytes) (hq : lenField q = len) : addBytes s.csum q = checksumOf t q := by
    rw [hcs, ← addBytes_append, ← addBytes_wire_order, hq]
  by_cases h2 : len = 2
  · rw [if_pos h2] at hph
    have h0 : checksumOf t [] = s.csum := by
      rw [← hsum [] (by rw [h2]; rfl)]; rfl
    rw [rxOutcome_ck rest s hg hph hi, validateRest, htwo.1 h2, hpay]
    simp [h0]
  · rw [if_neg h2] at hph
    have h3 : len.toNat ≠ 2 := mt htwo.2 h2
    by_cases hs : rest.length + 2 < len.toNat
    · obtain ⟨hg', hp'⟩ := rxFeed_pay_short len rest 0 s (by omega) hg hph hrl hcnt
      rw [validateRest, if_pos (by omega), rxOutcome, hg', hp']
      rfl
    · have hq : (rest.take (len.toNat - 2)).length = len.toNat - 2 := by rw [List.length_take]; omega
      have hfeed : rxFeed rest s = rxFeed (rest.drop (len.toNat - 2)) (rxFeed (rest.take (len.toNat - 2)) s) := by
        have happ : ∀ (x y : Bytes) (u : State), rxFeed (x ++ y) u = rxFeed y (rxFeed x u) := by
          intro x
          induction x with
          | nil => intro y u; rfl
          | cons b x ih => intro y u; exact ih y _
        rw [← happ, List.take_append_drop]
      rw [hfeed, rxFeed_pay_all len hlen (rest.take (len.toNat - 2)) 0 s
          (by intro h; rw [h] at hq; simp at hq; omega) (by omega) hg hph hrl hcnt,
        rxOutcome_ck _ _ (by exact hg) (by rfl) (by rfl)]
      have hd : (rest.drop (len.toNat - 2)).length = rest.length - (len.toNat - 2) := List.length_drop
      rw [validateRest, hd]
      by_cases hr : rest.length < len.toNat
      · rw [if_pos hr, if_pos (by omega)]
      · have e0 : memReadByte (rest.drop (len.toNat - 2)) 0 = memReadByte rest (len.toNat - 2) := by
          simp [memReadByte, List.getElem?_eq_getElem (show len.toNat - 2 < rest.length by omega)]
        have e1 : memReadByte (rest.drop (len.toNat - 2)) 1 = memReadByte rest (len.toNat - 1) := by
          have : len.toNat - 2 + 1 = len.toNat - 1 := by omega
          simp [memReadByte, this, List.getElem?_eq_getElem (show len.toNat - 1 < rest.length by omega)]
        rw [if_neg hr, if_neg (by omega), e0, e1, hsum _ (lenField_take len hlen rest (by omega)), hpay]
        rfl

/-! ### The header -/

theorem rxOutcome_failed (k : ErrorKind) (rest : Bytes) (s : State) (hg : s.rx.got = true)
    (hph : s.rx.rxph = .fail) (he : s.rx.rxerr = errCode k) : rxOutcome (rxFeed rest s) = .error k := by
  rw [rxFeed_settled rest s hg (.inl hph)]
  simp [rxOutcome, hg, hph, he]

/-- R118: both start-code bytes. -/
theorem rxOutcome_sc (a b : Byte) (rest : Bytes) (s : State) (hph : s.rx.rxph = .sc) (hi : s.rx.rxi = 0) :
    rxOutcome (rxFeed (a :: b :: rest) s) =
      if a = 0xEF ∧ b = 0x01 then
        rxOutcome (rxFeed rest { s with rx := { s.rx with
          got := true, shift := shiftIn (shiftIn s.rx.shift a) b, rxi := 0, rxph := .addr } })
      else .error .headerMismatch := by
  by_cases h : a = 0xEF ∧ b = 0x01
  · have hs := (fromBe16_eq_start a b).2 h
    rw [if_pos h, rxFeed, rxFeed]
    simp [rxStep, rxNext, rxCovered, hph, hi, shiftIn_two, hs]
  · have hs : ¬ fromBe16 a b = 0xEF01#16 := mt (fromBe16_eq_start a b).1 h
    rw [if_neg h, rxFeed, rxFeed]
    exact rxOutcome_failed .headerMismatch rest _ (by simp [rxStep, rxNext, rxFail, hph, hi, shiftIn_two, hs])
      (by simp [rxStep, rxNext, rxFail, hph, hi, shiftIn_two, hs])
      (by simp [rxStep, rxNext, rxFail, hph, hi, shiftIn_two, hs])

/-- R119: the four address bytes. -/
theorem rxOutcome_addr (a b c d : Byte) (rest : Bytes) (s : State) (hg : s.rx.got = true)
    (hph : s.rx.rxph = .addr) (hi : s.rx.rxi = 0) :
    rxOutcome (rxFeed (a :: b :: c :: d :: rest) s) =
      if fromBe32 a b c d ≠ s.rx.ea then .error .addressMismatch
      else
        rxOutcome (rxFeed rest { s with rx := { s.rx with
          shift := fromBe32 a b c d, rxi := 0, rxph := .type } }) := by
  by_cases h : fromBe32 a b c d = s.rx.ea
  · rw [if_neg (by simpa using h), rxFeed, rxFeed, rxFeed, rxFeed]
    simp [rxStep, rxNext, rxCovered, hph, hi, shiftIn_four, h, hg]
  · rw [if_pos h, rxFeed, rxFeed, rxFeed, rxFeed]
    exact rxOutcome_failed .addressMismatch rest _
      (by simp [rxStep, rxNext, rxFail, hph, hi, shiftIn_four, h])
      (by simp [rxStep, rxNext, rxFail, hph, hi, shiftIn_four, h])
      (by simp [rxStep, rxNext, rxFail, hph, hi, shiftIn_four, h])

/-- R120: the type byte. -/
theorem rxOutcome_type (t : Byte) (rest : Bytes) (s : State) (hg : s.rx.got = true)
    (hph : s.rx.rxph = .type) :
    rxOutcome (rxFeed (t :: rest) s) =
      if t ≠ s.rx.et then .error .typeMismatch
      else
        rxOutcome (rxFeed rest { s with
          rx := { s.rx with rxi := 0, rxph := .len }
          csum := addByte s.csum t }) := by
  by_cases h : t = s.rx.et
  · rw [if_neg (by simpa using h), rxFeed]
    simp [rxStep, rxNext, rxCovered, hph, h, hg]
  · rw [if_pos h, rxFeed]
    exact rxOutcome_failed .typeMismatch rest _ (by simp [rxStep, rxNext, rxFail, hph, h])
      (by simp [rxStep, rxNext, rxFail, hph, h]) (by simp [rxStep, rxNext, rxFail, hph, h])

/-- R121: the two length bytes. -/
theorem rxOutcome_len (a b : Byte) (rest : Bytes) (s : State) (hg : s.rx.got = true)
    (hph : s.rx.rxph = .len) (hi : s.rx.rxi = 0) (hcnt : s.rx.rxcnt = 0) :
    rxOutcome (rxFeed (a :: b :: rest) s) =
      if (fromBe16 a b).toNat < 2 then .error .headerMismatch
      else
        rxOutcome (rxFeed rest { s with
          rx := { s.rx with
            shift := shiftIn (shiftIn s.rx.shift a) b, rxi := 0, rxlen := fromBe16 a b
            rxph := if fromBe16 a b = 2 then .ck else .pay }
          csum := addBytes s.csum [a, b] }) := by
  by_cases h : (fromBe16 a b).toNat < 2
  · rw [if_pos h, rxFeed, rxFeed]
    exact rxOutcome_failed .headerMismatch rest _
      (by simp [rxStep, rxNext, rxFail, hph, hi, shiftIn_two, h])
      (by simp [rxStep, rxNext, rxFail, hph, hi, shiftIn_two, h])
      (by simp [rxStep, rxNext, rxFail, hph, hi, shiftIn_two, h])
  · rw [if_neg h, rxFeed, rxFeed]
    have h' : ¬ (fromBe16 a b).toNat ≤ 1 := by omega
    by_cases h2 : fromBe16 a b = 2#16
    · simp [rxStep, rxNext, rxCovered, hph, hi, shiftIn_two, h2, hg, addBytes]
    · simp [rxStep, rxNext, rxCovered, hph, hi, shiftIn_two, h2, hg, addBytes, h', hcnt]

/-- The machine on a read of at least a header. -/
theorem rxOutcome_header (b0 b1 b2 b3 b4 b5 b6 b7 b8 : Byte) (rest : Bytes) (ea : Word32) (et : Byte) (s : State) :
    rxOutcome (rxFeed (b0 :: b1 :: b2 :: b3 :: b4 :: b5 :: b6 :: b7 :: b8 :: rest) (rxStart ea et s)) =
      if ¬ (b0 = 0xEF ∧ b1 = 0x01) then .error .headerMismatch
      else if fromBe32 b2 b3 b4 b5 ≠ ea then .error .addressMismatch
      else if b6 ≠ et then .error .typeMismatch
      else if (fromBe16 b7 b8).toNat < 2 then .error .headerMismatch
      else validateRest b6 (fromBe16 b7 b8).toNat rest := by
  rw [rxOutcome_sc _ _ _ _ rfl rfl, ite_not]
  split
  · rw [rxOutcome_addr _ _ _ _ _ _ rfl rfl rfl]
    split
    · rw [if_pos (by assumption)]
    · rw [if_neg (by assumption), rxOutcome_type _ _ _ rfl rfl]
      split
      · rw [if_pos (by assumption)]
      · rw [if_neg (by assumption), rxOutcome_len _ _ _ _ rfl rfl rfl rfl]
        split
        · rfl
        · exact rxOutcome_body b6 (fromBe16 b7 b8) (by omega) rest _ rfl rfl rfl rfl rfl
            (by rw [be16_fromBe16]; rfl) rfl
  · rfl

/-- The machine on a read that ends inside the header. -/
theorem rxOutcome_short (raw : Bytes) (ea : Word32) (et : Byte) (s : State) (h : raw.length < 9) :
    rxOutcome (rxFeed raw (rxStart ea et s)) = validate raw ea et := by
  have inc (u : State) (hg : u.rx.got = true) (h1 : u.rx.rxph ≠ .fail) (h2 : u.rx.rxph ≠ .done) :
      rxOutcome u = .error .headerMismatch := by
    rw [rxOutcome, hg]
    cases hp : u.rx.rxph <;> simp_all
  match raw with
  | [] => rfl
  | [_] => exact inc _ rfl (by simp [rxFeed, rxStep, rxNext, rxStart]) (by simp [rxFeed, rxStep, rxNext, rxStart])
  | a :: b :: r =>
    have v0 : memReadByte (a :: b :: r) 0 = a := rfl
    have v1 : memReadByte (a :: b :: r) 1 = b := rfl
    rw [rxOutcome_sc _ _ _ _ rfl rfl]
    by_cases hs : a = 0xEF ∧ b = 0x01
    · obtain ⟨rfl, rfl⟩ := hs
      rw [if_pos ⟨rfl, rfl⟩]
      match r with
      | [] => rfl
      | [_] => exact inc _ rfl (by simp [rxFeed, rxStep, rxNext]) (by simp [rxFeed, rxStep, rxNext])
      | [_, _] => exact inc _ rfl (by simp [rxFeed, rxStep, rxNext]) (by simp [rxFeed, rxStep, rxNext])
      | [_, _, _] => exact inc _ rfl (by simp [rxFeed, rxStep, rxNext]) (by simp [rxFeed, rxStep, rxNext])
      | c :: d :: e :: f :: r =>
        rw [rxOutcome_addr _ _ _ _ _ _ rfl rfl rfl]
        by_cases hea : fromBe32 c d e f = ea
        · rw [if_neg (by simpa [rxStart] using hea)]
          match r with
          | [] => simp [validate, memReadByte, hea]; exact inc _ rfl (by simp [rxFeed]) (by simp [rxFeed])
          | t :: r =>
            rw [rxOutcome_type _ _ _ rfl rfl]
            by_cases het : t = et
            · rw [if_neg (by simpa [rxStart] using het)]
              match r with
              | [] => simp [validate, memReadByte, hea, het]; exact inc _ rfl (by simp [rxFeed]) (by simp [rxFeed])
              | [g] =>
                simp [validate, memReadByte, hea, het]
                exact inc _ rfl (by simp [rxFeed, rxStep, rxNext]) (by simp [rxFeed, rxStep, rxNext])
              | g :: k :: r => simp at h; omega
            · rw [if_pos (by simpa [rxStart] using het)]
              simp [validate, memReadByte, hea, het]
              rw [if_neg (by omega), if_neg (by omega)]
        · rw [if_pos (by simpa [rxStart] using hea)]
          simp [validate, memReadByte, hea]
    · rw [if_neg hs]
      simp only [validate, v0, v1, List.length_cons]
      rw [if_neg (by omega), if_neg (by omega), if_pos (by tauto)]

/-- R108: what the receive machine reports is DECODE's outcome (R101), whatever the state it starts from. -/
theorem decodeOutcome_eq (raw : Bytes) (ea : Word32) (et : Byte) (s : State) :
    decodeOutcome raw ea et s = validate raw ea et := by
  by_cases h : raw.length < 9
  · exact rxOutcome_short raw ea et _ h
  · match raw, h with
    | b0 :: b1 :: b2 :: b3 :: b4 :: b5 :: b6 :: b7 :: b8 :: rest, _ =>
      have hb (i : Nat) : memReadByte (b0 :: b1 :: b2 :: b3 :: b4 :: b5 :: b6 :: b7 :: b8 :: rest) (9 + i) =
          if i < rest.length then memReadByte rest i else Config.outsideSpace (9 + i) := by
        have e : (b0 :: b1 :: b2 :: b3 :: b4 :: b5 :: b6 :: b7 :: b8 :: rest)[9 + i]? = rest[i]? := by
          rw [Nat.add_comm]; rfl
        rw [memReadByte, e, memReadByte]
        by_cases hi : i < rest.length
        · rw [if_pos hi, List.getElem?_eq_getElem hi]
        · rw [if_neg hi, List.getElem?_eq_none (by omega)]
      have hl : (b0 :: b1 :: b2 :: b3 :: b4 :: b5 :: b6 :: b7 :: b8 :: rest).length = rest.length + 9 := rfl
      rw [decodeOutcome, rxRead, rxOutcome_header, validate]
      generalize hraw : b0 :: b1 :: b2 :: b3 :: b4 :: b5 :: b6 :: b7 :: b8 :: rest = raw at *
      have m0 : memReadByte raw 0 = b0 := by rw [← hraw]; rfl
      have m1 : memReadByte raw 1 = b1 := by rw [← hraw]; rfl
      have m2 : memReadByte raw 2 = b2 := by rw [← hraw]; rfl
      have m3 : memReadByte raw 3 = b3 := by rw [← hraw]; rfl
      have m4 : memReadByte raw 4 = b4 := by rw [← hraw]; rfl
      have m5 : memReadByte raw 5 = b5 := by rw [← hraw]; rfl
      have m6 : memReadByte raw 6 = b6 := by rw [← hraw]; rfl
      have m7 : memReadByte raw 7 = b7 := by rw [← hraw]; rfl
      have m8 : memReadByte raw 8 = b8 := by rw [← hraw]; rfl
      have hp (n : Nat) : payloadOf raw n = rest.take n := by rw [← hraw]; rfl
      simp only [m0, m1, m2, m3, m4, m5, m6, m7, m8, hp, validateRest]
      have start : (b0 ≠ 0xEF ∨ b1 ≠ 0x01) ↔ ¬ (b0 = 0xEF ∧ b1 = 0x01) := by tauto
      rw [if_neg (by omega : ¬ raw.length = 0), if_neg (by omega : ¬ raw.length < 2),
        if_neg (by omega : ¬ raw.length < 6), if_neg (by omega : ¬ raw.length < 7),
        if_neg (by omega : ¬ raw.length < 9)]
      simp only [start]
      by_cases h2 : (fromBe16 b7 b8).toNat < 2
      · rw [if_pos h2, if_pos h2]
      · rw [if_neg h2, if_neg h2]
        by_cases h9 : rest.length < (fromBe16 b7 b8).toNat
        · have h9' : raw.length < (fromBe16 b7 b8).toNat - 2 + 11 := by omega
          rw [if_pos h9, if_pos h9']
        · have h9' : ¬ raw.length < (fromBe16 b7 b8).toNat - 2 + 11 := by omega
          have i0 : (fromBe16 b7 b8).toNat - 2 < rest.length := by omega
          have i1 : (fromBe16 b7 b8).toNat - 1 < rest.length := by omega
          have ten : 10 + ((fromBe16 b7 b8).toNat - 2) = 9 + ((fromBe16 b7 b8).toNat - 1) := by omega
          rw [if_neg h9, if_neg h9', ten, hb, hb, if_pos i0, if_pos i1]
    | [], h => exact absurd (by simp) h
    | [_], h => exact absurd (by simp) h
    | [_, _], h => exact absurd (by simp) h
    | [_, _, _], h => exact absurd (by simp) h
    | [_, _, _, _], h => exact absurd (by simp) h
    | [_, _, _, _, _], h => exact absurd (by simp) h
    | [_, _, _, _, _, _], h => exact absurd (by simp) h
    | [_, _, _, _, _, _, _], h => exact absurd (by simp) h
    | [_, _, _, _, _, _, _, _], h => exact absurd (by simp) h

/-! ### What it writes -/

theorem rxFeed_frame (bs : Bytes) : ∀ s : State, rxFeed bs s =
    { s with rx := (rxFeed bs s).rx, csum := (rxFeed bs s).csum, rxpay := (rxFeed bs s).rxpay } := by
  induction bs with
  | nil => intro s; rfl
  | cons b bs ih => intro s; rw [rxFeed, ih]; rfl

/-- R101, R117: a decode writes RAW, RXPAY, CSUM and the receive machine, and nothing else; RXPAY ends as the payload
on `Ok` and is discarded on an error (R125); the machine ends in R_IDLE. -/
theorem decodeBuffer_eq (raw : Bytes) (ea : Word32) (et : Byte) (s : State) :
    decodeBuffer raw ea et s =
      { s with
        raw := raw
        rx := { (rxRead raw ea et s).rx with rxph := .idle }
        csum := (rxRead raw ea et s).csum
        rxpay := match validate raw ea et with
          | .ok p => p
          | .error _ => [] } := by
  have h : rxOutcome (rxRead raw ea et s) = validate raw ea et := decodeOutcome_eq raw ea et s
  have hf := rxFeed_frame raw (rxStart ea et { s with raw := raw })
  rw [decodeBuffer, rxEnd, h, rxRead, hf]
  rfl

end Sys2Proof.Laws
end

