-- ==== Sys2Proof/Laws/Transmit.lean ====
section
/-! SUPPORT. What the transmit machine does, once: the frame of R100 in FRAME, the checksum in CSUM, the latched
operands, and nothing else (40_frame_codec.md R108, R110 to R116). -/

namespace Sys2Proof.Laws

open Sys2Proof.Machine

theorem txRun_add (j k : Nat) : ∀ s : State, txRun (j + k) s = txRun k (txRun j s) := by
  induction j with
  | zero => intro s; simp [txRun]
  | succ j ih => intro s; rw [Nat.succ_add, txRun, ih]; rfl

/-- The nine header steps (R111 to R114): the header in FRAME, the type and the length bytes in CSUM. -/
theorem txRun_header (a : Word32) (t : Byte) (p : Bytes) (s : State) :
    txRun 9 (txStart a t p s) =
      { txStart a t p s with
        frame := frameHeader a t (lenField p)
        csum := addBytes 0 (t :: be16 (lenField p))
        tx := { (txStart a t p s).tx with
          txph := if lenField p = 2 then TxPhase.ck else TxPhase.pay } } := by
  by_cases h : lenField p = 2#16 <;>
    simp [txRun, txStep, txStart, txByte, txNext, txCovered, addBytes, frameHeader, be16, be32, h]

/-- The payload steps (R115), with `q` still to be emitted. -/
theorem txRun_payload (p : Bytes) (hp : p.length ≤ maxPayload) (q : Bytes) :
    ∀ (done : Bytes) (s : State), p = done ++ q → q ≠ [] → s.txpay = p → s.tx.txph = .pay →
      s.tx.txlen = lenField p → s.tx.txcnt = BitVec.ofNat 16 done.length →
      txRun q.length s =
        { s with
          frame := s.frame ++ q
          csum := addBytes s.csum q
          tx := { s.tx with txcnt := BitVec.ofNat 16 p.length, txph := .ck } } := by
  induction q with
  | nil => intro done s _ h; exact absurd rfl h
  | cons b q ih =>
    intro done s hpq _ htx hph hlen hcnt
    have hl : p.length = done.length + (q.length + 1) := by simp [hpq]
    have hm : p.length ≤ 65533 := hp
    have hb : txByte s = b := by
      have : done.length % 65536 = done.length := Nat.mod_eq_of_lt (by omega)
      simp [txByte, hph, memReadByte, htx, hcnt, hpq, this]
    have hstep : txStep s = { s with frame := s.frame ++ [b], csum := addByte s.csum b, tx := txNext s.tx } := by
      simp [txStep, hph, hb, txCovered]
    have hcond : (s.tx.txcnt + 1 = s.tx.txlen - 2) ↔ q = [] := by
      rw [hcnt, hlen, lenField, ← BitVec.toNat_inj]
      simp only [BitVec.toNat_add, BitVec.toNat_ofNat, BitVec.toNat_sub]
      rw [← List.length_eq_zero_iff]
      simp only [Nat.reducePow, BitVec.ofNat_eq_ofNat, BitVec.toNat_ofNat]
      omega
    rw [List.length_cons, txRun, hstep]
    by_cases hq : q = []
    · subst hq
      have hn : txNext s.tx = { s.tx with txcnt := s.tx.txcnt + 1, txph := .ck } := by
        simp only [txNext, hph]
        exact if_pos (hcond.2 rfl)
      have hc : s.tx.txcnt + 1 = BitVec.ofNat 16 p.length := by
        rw [hcnt, hl, ← BitVec.toNat_inj]
        simp [BitVec.toNat_add]
      simp [txRun, hn, addBytes, ← hc]
    · have hn : txNext s.tx = { s.tx with txcnt := s.tx.txcnt + 1 } := by
        simp only [txNext, hph]
        exact if_neg (mt hcond.1 hq)
      have hc : s.tx.txcnt + 1 = BitVec.ofNat 16 (done ++ [b]).length := by
        rw [hcnt, ← BitVec.toNat_inj]
        simp [BitVec.toNat_add]
      rw [hn]
      rw [ih (done ++ [b]) _ (by simp [hpq]) hq (by exact htx) (by exact hph) (by exact hlen) (by exact hc)]
      simp [addBytes]

/-- The two checksum steps (R116). -/
theorem txRun_checksum (s : State) (hph : s.tx.txph = .ck) (hi : s.tx.txi = 0) :
    txRun 2 s = { s with frame := s.frame ++ be16 s.csum, tx := { s.tx with txi := 0, txph := .idle } } := by
  simp [txRun, txStep, txByte, txNext, txCovered, hph, hi, be16]

/-- What an encode does (R100, R110 to R116). -/
theorem encodeFrame_eq (a : Word32) (t : Byte) (p : Bytes) (s : State) (hp : p.length ≤ maxPayload) :
    encodeFrame a t p s =
      { s with
        tx := { txph := .idle, txi := 0, txa := a, txtyp := t, txlen := lenField p,
                txcnt := BitVec.ofNat 16 p.length }
        csum := checksumOf t p
        txpay := p
        frame := wireFrame a t p } := by
  have hm : p.length ≤ 65533 := hp
  have hlen : lenField p = 2 ↔ p = [] := by
    rw [lenField, ← BitVec.toNat_inj, ← List.length_eq_zero_iff]
    simp only [BitVec.ofNat_eq_ofNat, BitVec.toNat_ofNat, Nat.reducePow]
    omega
  have hsplit : p.length + frameOverhead = 9 + (p.length + 2) := by simp [frameOverhead]; omega
  rw [encodeFrame, hsplit, txRun_add, txRun_header, txRun_add]
  by_cases h : p = []
  · subst h
    rw [List.length_nil, txRun, txRun_checksum _ (by simp [lenField]) (by simp [txStart])]
    simp [txStart, csumClear, wireFrame, ← addBytes_wire_order, addBytes]
  · have h' : lenField p ≠ 2 := mt hlen.1 h
    rw [txRun_payload p hp p [] _ rfl h (by simp [txStart]) (if_neg h') (by simp [txStart])
        (by simp [txStart]), txRun_checksum _ (by simp) (by simp [txStart])]
    simp only [txStart, csumClear, wireFrame, ← addBytes_wire_order, addBytes_append]

end Sys2Proof.Laws
end

