-- ==== Sys2Proof/Laws/Operation.lean ====
section
/-! SUPPORT. What the shared operations of the meanings do, once: the frame of an operation (refused, accepted, ended),
sending a frame, receiving a frame. -/

namespace Sys2Proof.Laws

open Sys2Proof.Machine

/-! ### Refusal and acceptance -/

theorem runOperation_refused (i : Instr) (body : State → State × Option (Except ErrorKind OpValue)) (s : State)
    (r : RefuseReason) (h : refusalOf s.busy s.opened s.sq.seq i = some r) :
    runOperation i body s = refuse r s := by
  simp [runOperation, h]

theorem runOperation_accepted (i : Instr) (body : State → State × Option (Except ErrorKind OpValue)) (s : State)
    (h : refusalOf s.busy s.opened s.sq.seq i = none) :
    runOperation i body s = conclude (body (accept s)).2 (body (accept s)).1 := by
  simp [runOperation, h]

theorem badType_false_iff (c : Byte) : badType c = false ↔ c ∈ [0x01, 0x02, 0x07, 0x08] := by
  simp only [badType, PacketType.ofCode?]
  repeat' split
  all_goals simp_all

@[simp] theorem badType_code (t : PacketType) : badType t.code = false := by simp [badType]

theorem badLength_false_iff (p : Bytes) : badLength p = false ↔ p.length ≤ maxPayload := by
  simp [badLength]

theorem badPacketSize_false_iff (n : Nat) : badPacketSize n = false ↔ 1 ≤ n ∧ n ≤ maxPayload := by
  simp [badPacketSize]
  omega

/-! ### Sending a frame -/

/-- R155, R100: what sending one frame does. -/
theorem sendFrame_eq (t : Byte) (p : Bytes) (s : State) (hp : p.length ≤ maxPayload) :
    sendFrame t p s =
      { s with
        tx := { txph := .idle, txi := 0, txa := s.addr, txtyp := t, txlen := lenField p,
                txcnt := BitVec.ofNat 16 p.length }
        csum := checksumOf t p
        txpay := p
        frame := wireFrame s.addr t p
        chan := chanWrite (wireFrame s.addr t p) s.chan } := by
  rw [sendFrame, encodeFrame_eq _ _ _ _ hp]

theorem wireFrame_length (a : Word32) (t : Byte) (p : Bytes) :
    (wireFrame a t p).length = p.length + frameOverhead := by
  simp [wireFrame, frameOverhead]
  omega

/-- R155: the frame is sent whole or it is a WriteError. -/
theorem sendOutcome_eq (t : Byte) (p : Bytes) (s : State) (hp : p.length ≤ maxPayload) :
    sendOutcome t p s =
      if writeCount (wireFrame s.addr t p) s.chan < p.length + frameOverhead then .error .writeError else .ok () := by
  rw [sendOutcome, encodeFrame_eq _ _ _ _ hp]

/-! ### Receiving a frame -/

/-- R156: what receiving one frame reports. -/
theorem receiveOutcome_eq (et : Byte) (m : Nat) (s : State) :
    receiveOutcome et m s =
      match readAnswer m s.chan with
      | none => .error .connectionError
      | some bs => validate bs s.addr et := by
  unfold receiveOutcome
  split <;> simp [decodeOutcome_eq, *]

/-- R156: receiving one frame writes RAW, RXPAY, the receive machine, CSUM and the channel, and nothing else. -/
theorem receiveFrame_eq (et : Byte) (m : Nat) (s : State) :
    receiveFrame et m s =
      { s with
        raw := (receiveFrame et m s).raw
        rx := (receiveFrame et m s).rx
        csum := (receiveFrame et m s).csum
        rxpay := (receiveFrame et m s).rxpay
        chan := chanRead m s.timeout s.chan } := by
  unfold receiveFrame
  cases h : readAnswer m s.chan with
  | none => rfl
  | some bs =>
    simp only []
    rw [decodeBuffer_eq]

@[simp] theorem receiveFrame_chan (et : Byte) (m : Nat) (s : State) :
    (receiveFrame et m s).chan = chanRead m s.timeout s.chan := by rw [receiveFrame_eq]
@[simp] theorem receiveFrame_addr (et : Byte) (m : Nat) (s : State) :
    (receiveFrame et m s).addr = s.addr := by rw [receiveFrame_eq]
@[simp] theorem receiveFrame_timeout (et : Byte) (m : Nat) (s : State) :
    (receiveFrame et m s).timeout = s.timeout := by rw [receiveFrame_eq]
@[simp] theorem receiveFrame_sq (et : Byte) (m : Nat) (s : State) :
    (receiveFrame et m s).sq = s.sq := by rw [receiveFrame_eq]
@[simp] theorem receiveFrame_bulk (et : Byte) (m : Nat) (s : State) :
    (receiveFrame et m s).bulk = s.bulk := by rw [receiveFrame_eq]

theorem of_ite {α : Type} {P : α → Prop} {c : Prop} [Decidable c] {x y : α} (hx : P x) (hy : P y) :
    P (if c then x else y) := by
  split <;> assumption

/-- What `validate` can answer: a payload shorter than the length field, or one of five errors (R101, R212). -/
theorem validate_cases (raw : Bytes) (ea : Word32) (et : Byte) :
    (∃ p, validate raw ea et = .ok p ∧ p.length ≤ maxPayload) ∨
      ∃ k ∈ [ErrorKind.emptyRead, .headerMismatch, .addressMismatch, .typeMismatch, .checksumMismatch],
        validate raw ea et = .error k := by
  let P : Except ErrorKind Bytes → Prop := fun v =>
    (∃ p, v = .ok p ∧ p.length ≤ maxPayload) ∨
      ∃ k ∈ [ErrorKind.emptyRead, .headerMismatch, .addressMismatch, .typeMismatch, .checksumMismatch], v = .error k
  have bad : ∀ k ∈ [ErrorKind.emptyRead, .headerMismatch, .addressMismatch, .typeMismatch, .checksumMismatch],
      P (.error k) := fun k hk => .inr ⟨k, hk, rfl⟩
  have h := (fromBe16 (memReadByte raw 7) (memReadByte raw 8)).isLt
  show P (validate raw ea et)
  unfold validate
  repeat' refine of_ite (bad _ (by decide)) ?_
  refine .inl ⟨_, rfl, ?_⟩
  simp only [payloadOf, maxPayload, List.length_take]
  omega

/-- A frame of R100 under the right address and type validates, whatever follows it (R106, R101 step 11). -/
theorem validate_wireFrame (a : Word32) (t : Byte) (p more : Bytes) (hp : p.length ≤ maxPayload) :
    validate (wireFrame a t p ++ more) a t = .ok p := by
  have hm : p.length ≤ 65533 := hp
  have hlen : (lenField p).toNat = p.length + 2 := by
    rw [lenField, BitVec.toNat_ofNat]; omega
  rw [← decodeOutcome_eq _ _ _ State.reset, decodeOutcome, rxRead]
  have e : wireFrame a t p ++ more =
      0xEF :: 0x01 :: a.extractLsb' 24 8 :: a.extractLsb' 16 8 :: a.extractLsb' 8 8 :: a.extractLsb' 0 8 :: t ::
        (lenField p).extractLsb' 8 8 :: (lenField p).extractLsb' 0 8 :: (p ++ be16 (checksumOf t p) ++ more) := by
    simp [wireFrame, frameHeader, be32, be16]
  rw [e, rxOutcome_header, fromBe32_be32, fromBe16_be16, hlen]
  have t1 : (p ++ be16 (checksumOf t p) ++ more).take p.length = p := by simp
  have m0 : memReadByte (p ++ be16 (checksumOf t p) ++ more) p.length = (checksumOf t p).extractLsb' 8 8 := by
    simp [memReadByte, be16]
  have m1 : memReadByte (p ++ be16 (checksumOf t p) ++ more) (p.length + 1) = (checksumOf t p).extractLsb' 0 8 := by
    simp [memReadByte, be16]
  have hl : ¬ (p ++ be16 (checksumOf t p) ++ more).length < p.length + 2 := by
    simp only [List.length_append, be16_length]
    omega
  rw [if_neg (by simp), if_neg (by simp), if_neg (by simp), if_neg (by omega), validateRest, if_neg hl,
    show p.length + 2 - 2 = p.length by omega, show p.length + 2 - 1 = p.length + 1 by omega, m0, m1, t1,
    fromBe16_be16, if_neg (by simp)]

end Sys2Proof.Laws
end

