-- ==== Sys2Proof/Laws/Bulk.lean ====
section
/-! SUPPORT. What the sequencer does, once (43_bulk_transfer.md R184 to R189): what a run of steps keeps, that a run of
as many steps as there are frames ends, and what an exchange with the channel leaves of the channel. -/

namespace Sys2Proof.Laws

open Sys2Proof.Machine

/-! ### Runs -/

/-- `MemRead` inside a space (20_memory.md R51). -/
theorem memRead_inside (space : Bytes) (off n : Nat) (h : off + n ≤ space.length) :
    memRead space off n = (space.drop off).take n := by
  rw [memRead, show off + n - max off space.length = 0 by omega]
  simp

/-- `MemRead` gives as many bytes as asked, wherever it reads. -/
@[simp] theorem memRead_length (space : Bytes) (off n : Nat) : (memRead space off n).length = n := by
  simp only [memRead, List.length_append, List.length_take, List.length_drop, List.length_map, List.length_range']
  omega

/-- An upload never reads outside BULK (R188). -/
theorem ulChunk_eq (s : State) : ulChunk s = (s.bulk.drop s.sq.pos).take (chunkLen s) := by
  by_cases h : s.sq.pos ≤ s.bulk.length
  · exact memRead_inside _ _ _ (by simp only [chunkLen]; omega)
  · have hz : chunkLen s = 0 := by simp only [chunkLen]; omega
    have hl := memRead_length s.bulk s.sq.pos (chunkLen s)
    rw [hz] at hl
    rw [ulChunk, hz, List.length_eq_zero_iff.1 hl, List.take_zero]

/-- What every download step keeps, a run of them keeps. -/
theorem dlRun_keeps {P : State → Prop} (hstep : ∀ s, P s → P (dlStep s).1) :
    ∀ fuel s, P s → P (dlRun fuel s).1 := by
  intro fuel
  induction fuel with
  | zero => intro s h; exact h
  | succ fuel ih =>
    intro s h
    have h1 := hstep s h
    rw [dlRun]
    split
    · rename_i t r e; rw [e] at h1; exact h1
    · rename_i t e; rw [e] at h1; exact ih t h1

/-- What every upload step keeps, a run of them keeps. -/
theorem ulRun_keeps {P : State → Prop} (hstep : ∀ s, P s → P (ulStep s).1) :
    ∀ fuel s, P s → P (ulRun fuel s).1 := by
  intro fuel
  induction fuel with
  | zero => intro s h; exact h
  | succ fuel ih =>
    intro s h
    have h1 := hstep s h
    rw [ulRun]
    split
    · rename_i t r e; rw [e] at h1; exact h1
    · rename_i t e; rw [e] at h1; exact ih t h1

/-- A download step ends the transfer, or moves on to the next of the remaining frames. -/
theorem dlStep_cases (s : State) :
    (∃ t r, dlStep s = (t, some r)) ∨
      ∃ t, dlStep s = (t, none) ∧ isLast s.sq = false ∧ t.sq = { s.sq with idx := s.sq.idx + 1 } := by
  unfold dlStep
  dsimp only
  split
  · exact .inl ⟨_, _, rfl⟩
  · split
    · exact .inl ⟨_, _, rfl⟩
    · split
      · exact .inl ⟨_, _, rfl⟩
      · exact .inr ⟨_, rfl, by simp_all, by simp⟩

theorem dlRun_ends : ∀ fuel s, 0 < fuel → s.sq.idx + fuel = s.sq.cntn → ∃ t r, dlRun fuel s = (t, some r) := by
  intro fuel
  induction fuel with
  | zero => intro s h; omega
  | succ fuel ih =>
    intro s _ hn
    rw [dlRun]
    rcases dlStep_cases s with ⟨t, r, e⟩ | ⟨t, e, hl, hs⟩
    · rw [e]; exact ⟨t, r, rfl⟩
    · rw [e]
      have : s.sq.idx + 1 ≠ s.sq.cntn := by simpa [isLast] using hl
      exact ih t (by omega) (by rw [hs]; dsimp only; omega)

/-- An upload step ends the transfer, or moves on to the next of the remaining frames. -/
theorem ulStep_cases (s : State) :
    (∃ t r, ulStep s = (t, some r)) ∨
      ∃ t, ulStep s = (t, none) ∧ isLast s.sq = false ∧ t.sq.idx = s.sq.idx + 1 ∧ t.sq.cntn = s.sq.cntn := by
  have hc : ∀ t c, (sendFrame t c s).sq = s.sq := by
    intro t c
    simp only [sendFrame, encodeFrame]
    have : ∀ k u, (txRun k u).sq = u.sq := by
      intro k
      induction k with
      | zero => intro u; rfl
      | succ k ih => intro u; rw [txRun, ih, txStep]; split <;> rfl
    rw [this]; rfl
  unfold ulStep
  dsimp only
  split
  · exact .inl ⟨_, _, rfl⟩
  · split
    · exact .inl ⟨_, _, rfl⟩
    · exact .inr ⟨_, rfl, by simp_all, by simp [hc], by simp [hc]⟩

theorem ulRun_ends : ∀ fuel s, 0 < fuel → s.sq.idx + fuel = s.sq.cntn → ∃ t r, ulRun fuel s = (t, some r) := by
  intro fuel
  induction fuel with
  | zero => intro s h; omega
  | succ fuel ih =>
    intro s _ hn
    rw [ulRun]
    rcases ulStep_cases s with ⟨t, r, e⟩ | ⟨t, e, hl, hi, hc⟩
    · rw [e]; exact ⟨t, r, rfl⟩
    · rw [e]
      have : s.sq.idx + 1 ≠ s.sq.cntn := by simpa [isLast] using hl
      exact ih t (by omega) (by omega)

theorem ceilDiv_pos (m size : Nat) (hm : 0 < m) (hs : 1 ≤ size) : 0 < ceilDiv m size := by
  rw [ceilDiv]
  exact Nat.div_pos (by omega) (by omega)

end Sys2Proof.Laws
end

