-- ==== Sys2Proof/Laws/Exec.lean ====
section
/-! SUPPORT. Every host operation is `runOperation` of one body; what the bodies keep, that they end, and with which
errors. -/

namespace Sys2Proof.Laws

open Sys2Proof.Machine

/-- The body of a request; a frame has none. -/
def bodyOf : Instr → State → State × Option (Except ErrorKind OpValue)
  | .encode a t p => encodeBody a t p
  | .decode raw ea et => decodeBody raw ea et
  | .checksum t p => checksumBody t p
  | .openChannel c a tmo => openBody c a tmo
  | .sendCommand p => sendCommandBody p
  | .receive et m => receiveBody et m
  | .transfer p e => transferBody p e
  | .setAddress a => setAddressBody a
  | .download n sz => downloadBody n sz
  | .upload b sz => uploadBody b sz
  | .frameCommand _ _ _ => fun s => (s, none)
  | .frameData _ _ _ => fun s => (s, none)
  | .frameAck _ _ _ => fun s => (s, none)
  | .frameEndData _ _ _ => fun s => (s, none)

theorem exec_request (i : Instr) (h : isRequest i = true) (s : State) :
    exec i s = .next (runOperation i (bodyOf i) s) := by
  cases i <;> first | rfl | cases h

/-! ### What no body writes -/

/-- ERR, REF, BUSY, the result, the session's TIMEOUT and the inputs are as they were. -/
def KeepsResult (s t : State) : Prop :=
  t.err = s.err ∧ t.ref = s.ref ∧ t.busy = s.busy ∧ t.result = s.result ∧ t.inputs = s.inputs

/-- The session registers too. -/
def KeepsSession (s t : State) : Prop :=
  KeepsResult s t ∧ t.addr = s.addr ∧ t.timeout = s.timeout ∧ t.opened = s.opened

theorem KeepsSession.refl (s : State) : KeepsSession s s := by simp [KeepsSession, KeepsResult]

theorem KeepsSession.trans {s t u : State} (h : KeepsSession s t) (k : KeepsSession t u) : KeepsSession s u := by
  simp only [KeepsSession, KeepsResult] at *
  obtain ⟨⟨h1, h2, h3, h4, h5⟩, h6, h7, h8⟩ := h
  simp only [h1, h2, h3, h4, h5, h6, h7, h8] at k
  exact k

theorem txRun_keeps : ∀ k s, KeepsSession s (txRun k s) := by
  intro k
  induction k with
  | zero => intro s; exact .refl s
  | succ k ih =>
    intro s
    refine .trans ?_ (ih (txStep s))
    unfold txStep
    split <;> simp [KeepsSession, KeepsResult]

theorem encodeFrame_keeps (a : Word32) (t : Byte) (p : Bytes) (s : State) : KeepsSession s (encodeFrame a t p s) :=
  .trans (by simp [KeepsSession, KeepsResult, txStart, csumClear]) (txRun_keeps _ _)

theorem sendFrame_keeps (t : Byte) (p : Bytes) (s : State) : KeepsSession s (sendFrame t p s) :=
  .trans (encodeFrame_keeps s.addr t p s) (by simp [KeepsSession, KeepsResult, sendFrame])

theorem decodeBuffer_keeps (raw : Bytes) (ea : Word32) (et : Byte) (s : State) :
    KeepsSession s (decodeBuffer raw ea et s) := by
  rw [decodeBuffer_eq]
  simp [KeepsSession, KeepsResult]

theorem receiveFrame_keeps (et : Byte) (m : Nat) (s : State) : KeepsSession s (receiveFrame et m s) := by
  rw [receiveFrame_eq]
  simp [KeepsSession, KeepsResult]

theorem transferFlush_keeps (s : State) : KeepsSession s (transferFlush s) := by
  simp [KeepsSession, KeepsResult, transferFlush, settle]

theorem dlStep_keeps (s : State) : KeepsSession s (dlStep s).1 := by
  have h := receiveFrame_keeps (bulkType s.sq) (s.sq.pktsz.toNat + frameOverhead) s
  unfold dlStep
  dsimp only
  split
  · exact h
  · split
    · exact h
    · split <;> exact h

theorem ulStep_keeps (s : State) : KeepsSession s (ulStep s).1 := by
  have h := sendFrame_keeps (bulkType s.sq) (ulChunk s) s
  unfold ulStep
  dsimp only
  generalize sendFrame (bulkType s.sq) (ulChunk s) s = t at h ⊢
  split
  · exact h
  · split <;> exact h

theorem dlRun_session (fuel : Nat) (s : State) : KeepsSession s (dlRun fuel s).1 :=
  dlRun_keeps (P := KeepsSession s) (fun u h => h.trans (dlStep_keeps u)) fuel s (.refl s)

theorem ulRun_session (fuel : Nat) (s : State) : KeepsSession s (ulRun fuel s).1 :=
  ulRun_keeps (P := KeepsSession s) (fun u h => h.trans (ulStep_keeps u)) fuel s (.refl s)

theorem transferExchange_keeps (p : Bytes) (e : Nat) (s : State) :
    KeepsSession s (transferExchange p e s).1 := by
  unfold transferExchange
  split
  · exact sendFrame_keeps _ _ _
  · exact (sendFrame_keeps _ _ _).trans (receiveFrame_keeps _ _ _)

/-- Only OPEN and SET_ADDRESS write a session register (R23 to R25). -/
theorem body_keepsSession (i : Instr) (s : State) (ho : ∀ c a tmo, i ≠ .openChannel c a tmo)
    (hs : ∀ a, i ≠ .setAddress a) : KeepsSession s (bodyOf i s).1 := by
  cases i with
  | encode a t p => exact encodeFrame_keeps a t p s
  | decode raw ea et => exact decodeBuffer_keeps raw ea et s
  | checksum t p =>
    simp only [bodyOf, checksumBody, accumulate_eq]
    simp [KeepsSession, KeepsResult]
  | openChannel c a tmo => exact absurd rfl (ho c a tmo)
  | sendCommand p => exact sendFrame_keeps _ _ s
  | receive et m => exact receiveFrame_keeps et m s
  | transfer p e => exact (transferFlush_keeps s).trans (transferExchange_keeps p e _)
  | setAddress a => exact absurd rfl (hs a)
  | download n sz =>
    exact .trans (by simp [KeepsSession, KeepsResult, dlStart]) (dlRun_session n (dlStart n sz s))
  | upload b sz =>
    exact .trans (by simp [KeepsSession, KeepsResult, ulStart]) (ulRun_session _ (ulStart b sz s))
  | _ => exact .refl s

theorem body_keepsResult (i : Instr) (s : State) : KeepsResult s (bodyOf i s).1 := by
  cases i with
  | openChannel c a tmo =>
    simp only [bodyOf, openBody]
    split <;> simp [KeepsResult]
  | setAddress a => simp [bodyOf, setAddressBody, KeepsResult]
  | _ => exact (body_keepsSession _ s (by simp) (by simp)).1

/-! ### The end of a body -/

theorem firstRefusal_none {b : Bool} {r : RefuseReason} {rest : List (Bool × RefuseReason)}
    (h : firstRefusal ((b, r) :: rest) = none) : b = false ∧ firstRefusal rest = none := by
  cases b
  · exact ⟨rfl, h⟩
  · cases h

/-- An accepted operation comes to its end (R228). -/
theorem body_ends (i : Instr) (hi : isRequest i = true) (s : State) (busy opened : Bool) (seq : SeqPhase)
    (ha : refusalOf busy opened seq i = none) : ∃ r, (bodyOf i s).2 = some r := by
  cases i with
  | encode a t p => exact ⟨_, rfl⟩
  | decode raw ea et => simp only [bodyOf, decodeBody, bytesResult]; split <;> exact ⟨_, rfl⟩
  | checksum t p => exact ⟨_, rfl⟩
  | openChannel c a tmo => simp only [bodyOf, openBody]; split <;> exact ⟨_, rfl⟩
  | sendCommand p => simp only [bodyOf, sendCommandBody, unitResult]; split <;> exact ⟨_, rfl⟩
  | receive et m => simp only [bodyOf, receiveBody, bytesResult]; split <;> exact ⟨_, rfl⟩
  | transfer p e =>
    simp only [bodyOf, transferBody, transferExchange]
    split
    · exact ⟨_, rfl⟩
    · simp only [receiveBody, bytesResult]; split <;> exact ⟨_, rfl⟩
  | setAddress a => exact ⟨_, rfl⟩
  | download n sz =>
    simp only [refusalOf] at ha
    have h1 := (firstRefusal_none (firstRefusal_none (firstRefusal_none ha).2).2).1
    have hn : 0 < n := by
      simp only [badCount, beq_eq_false_iff_ne] at h1
      omega
    obtain ⟨t, r, e⟩ := dlRun_ends n (dlStart n sz s) hn (Nat.zero_add n)
    exact ⟨r, by simp only [bodyOf, downloadBody, e]⟩
  | upload b sz =>
    simp only [refusalOf] at ha
    have h1 := firstRefusal_none (firstRefusal_none (firstRefusal_none ha).2).2
    have h2 := (firstRefusal_none h1.2).1
    have hb : 0 < b.length := by
      rw [List.length_pos_iff]
      simpa [emptyBuffer] using h2
    obtain ⟨t, r, e⟩ := ulRun_ends (ceilDiv b.length sz) (ulStart b sz s)
      (ceilDiv_pos _ _ hb ((badPacketSize_false_iff sz).1 h1.1).1) (Nat.zero_add _)
    exact ⟨r, by simp only [bodyOf, uploadBody, e]⟩
  | _ => cases hi

/-- The errors a received frame can end with. -/
theorem receiveOutcome_errors (et : Byte) (m : Nat) (s : State) (k : ErrorKind)
    (h : receiveOutcome et m s = .error k) :
    k ∈ [ErrorKind.connectionError, .emptyRead, .headerMismatch, .addressMismatch, .typeMismatch,
      .checksumMismatch] := by
  rw [receiveOutcome_eq] at h
  split at h
  · cases h; decide
  · rename_i bs _
    rcases validate_cases bs s.addr et with ⟨p, e, _⟩ | ⟨j, hj, e⟩
    · rw [e] at h; cases h
    · rw [e] at h
      cases h
      exact List.mem_cons_of_mem _ hj

theorem dlStep_errors (s t : State) (k : ErrorKind) (h : dlStep s = (t, some (.error k))) :
    k ∈ canRaise (.download 0 0) := by
  unfold dlStep at h
  dsimp only at h
  split at h
  · rename_i e he
    cases h
    have := receiveOutcome_errors _ _ _ _ he
    simp only [canRaise, List.mem_cons, List.not_mem_nil, or_false] at this ⊢
    tauto
  · split at h
    · cases h
    · split at h <;> cases h
      decide

theorem dlRun_errors : ∀ fuel s t k, dlRun fuel s = (t, some (.error k)) → k ∈ canRaise (.download 0 0) := by
  intro fuel
  induction fuel with
  | zero => intro s t k h; cases h
  | succ fuel ih =>
    intro s t k h
    rw [dlRun] at h
    split at h
    · rename_i u r e
      cases h
      exact dlStep_errors s t k e
    · exact ih _ _ _ h

theorem sendOutcome_errors (t : Byte) (p : Bytes) (s : State) (k : ErrorKind)
    (h : sendOutcome t p s = .error k) : k = .writeError := by
  unfold sendOutcome at h
  split at h <;> cases h
  rfl

theorem ulRun_errors : ∀ fuel s t k, ulRun fuel s = (t, some (.error k)) → k = .writeError := by
  intro fuel
  induction fuel with
  | zero => intro s t k h; cases h
  | succ fuel ih =>
    intro s t k h
    rw [ulRun] at h
    split at h
    · rename_i u r e
      cases h
      unfold ulStep at e
      dsimp only at e
      split at e
      · rename_i he
        cases e
        exact sendOutcome_errors _ _ _ _ he
      · split at e <;> cases e
    · exact ih _ _ _ h

/-- R212: which operation ends with which error. -/
theorem body_errors (i : Instr) (s : State) (k : ErrorKind) (h : (bodyOf i s).2 = some (.error k)) :
    k ∈ canRaise i := by
  cases i with
  | decode raw ea et =>
    simp only [bodyOf, decodeBody, bytesResult, decodeOutcome_eq] at h
    rcases validate_cases raw ea et with ⟨p, e, _⟩ | ⟨j, hj, e⟩
    · rw [e] at h; cases h
    · rw [e] at h; cases h; exact hj
  | openChannel c a tmo =>
    simp only [bodyOf, openBody] at h
    split at h <;> cases h
    simp [canRaise]
  | sendCommand p =>
    simp only [bodyOf, sendCommandBody, unitResult] at h
    split at h <;> cases h
    rename_i e
    rw [sendOutcome_errors _ _ _ _ e]
    simp [canRaise]
  | receive et m =>
    simp only [bodyOf, receiveBody, bytesResult] at h
    split at h <;> cases h
    rename_i e
    exact receiveOutcome_errors _ _ _ _ e
  | transfer p e =>
    simp only [bodyOf, transferBody, transferExchange] at h
    split at h
    · rename_i he
      cases h
      rw [sendOutcome_errors _ _ _ _ he]
      simp [canRaise]
    · simp only [receiveBody, bytesResult] at h
      split at h <;> cases h
      rename_i he
      have := receiveOutcome_errors _ _ _ _ he
      simp only [canRaise, List.mem_cons, List.not_mem_nil, or_false] at this ⊢
      tauto
  | download n sz =>
    exact dlRun_errors n (dlStart n sz s) (downloadBody n sz s).1 k (Prod.ext rfl h)
  | upload b sz =>
    rw [ulRun_errors _ (ulStart b sz s) (uploadBody b sz s).1 k (Prod.ext rfl h)]
    simp [canRaise]
  | _ => cases h

/-! ### All that a request can do -/

/-- A request is refused, or its body runs on the accepted state and the operation ends with the body's result. -/
theorem exec_request_cases (i : Instr) (hi : isRequest i = true) (s t : State) (h : exec i s = .next t) :
    (∃ r, refusalOf s.busy s.opened s.sq.seq i = some r ∧ t = refuse r s) ∨
      (refusalOf s.busy s.opened s.sq.seq i = none ∧
        ((∃ v, (bodyOf i (accept s)).2 = some (.ok v) ∧ t = succeed v (bodyOf i (accept s)).1) ∨
          ∃ k, (bodyOf i (accept s)).2 = some (.error k) ∧ k ∈ canRaise i ∧
            t = raise k (bodyOf i (accept s)).1)) := by
  rw [exec_request i hi] at h
  cases ha : refusalOf s.busy s.opened s.sq.seq i with
  | some r =>
    rw [runOperation_refused _ _ _ _ ha] at h
    exact .inl ⟨r, rfl, by simpa using h.symm⟩
  | none =>
    rw [runOperation_accepted _ _ _ ha] at h
    obtain ⟨r, e⟩ := body_ends i hi (accept s) _ _ _ ha
    rw [e] at h
    refine .inr ⟨rfl, ?_⟩
    cases r with
    | ok v => exact .inl ⟨v, e, by simpa [conclude] using h.symm⟩
    | error k => exact .inr ⟨k, e, body_errors i _ k e, by simpa [conclude] using h.symm⟩

/-- A frame arrives, and nothing else happens. -/
theorem exec_frame (t : PacketType) (a : Word32) (len : Word16) (body : Bytes) (s : State) :
    exec (frameInstr t a len body) s = .next (arrive (frameBytes a t len body) s) := by
  cases t <;> rfl

/-- Encoding a frame writes the transmit machine, CSUM, TXPAY and FRAME, and nothing else, whatever the payload. -/
theorem encodeFrame_frame (a : Word32) (t : Byte) (p : Bytes) (s : State) :
    (encodeFrame a t p s).rx = s.rx ∧ (encodeFrame a t p s).sq = s.sq ∧ (encodeFrame a t p s).bulk = s.bulk ∧
      (encodeFrame a t p s).raw = s.raw ∧ (encodeFrame a t p s).rxpay = s.rxpay ∧
      (encodeFrame a t p s).chan = s.chan := by
  have run : ∀ k (u : State), (txRun k u).rx = u.rx ∧ (txRun k u).sq = u.sq ∧ (txRun k u).bulk = u.bulk ∧
      (txRun k u).raw = u.raw ∧ (txRun k u).rxpay = u.rxpay ∧ (txRun k u).chan = u.chan := by
    intro k
    induction k with
    | zero => intro u; simp [txRun]
    | succ k ih =>
      intro u
      rw [txRun]
      have h := ih (txStep u)
      unfold txStep at h ⊢
      split at h <;> simp_all
  exact run _ _

end Sys2Proof.Laws
end

