-- ==== Sys2Proof/Laws/Outcomes.lean ====
section
/-! SUPPORT. What a received buffer of the wire's form validates to (40_frame_codec.md R101), and the state between two
operations read as its four facts (70_reset_and_hazards.md R259). -/

namespace Sys2Proof.Laws

open Sys2Proof.Machine

/-- The four bytes of a 32-bit value, from the bytes it was read from. -/
theorem be32_fromBe32 (a b c d : Byte) : be32 (fromBe32 a b c d) = [a, b, c, d] := by
  have := a.isLt; have := b.isLt; have := c.isLt; have := d.isLt
  simp only [be32, List.cons.injEq, and_true]
  refine ⟨?_, ?_, ?_, ?_⟩ <;> apply BitVec.eq_of_toNat_eq <;>
    simp only [fromBe32_toNat, BitVec.extractLsb'_toNat, Nat.shiftRight_eq_div_pow] <;> omega

/-- R101 on a buffer with the right start code and at least a header. -/
theorem validate_header (a ea : Word32) (t et : Byte) (len : Word16) (rest : Bytes) :
    validate (frameHeader a t len ++ rest) ea et =
      if a ≠ ea then .error .addressMismatch
      else if t ≠ et then .error .typeMismatch
      else if len.toNat < 2 then .error .headerMismatch
      else validateRest t len.toNat rest := by
  have e : frameHeader a t len ++ rest =
      0xEF :: 0x01 :: a.extractLsb' 24 8 :: a.extractLsb' 16 8 :: a.extractLsb' 8 8 :: a.extractLsb' 0 8 :: t ::
        len.extractLsb' 8 8 :: len.extractLsb' 0 8 :: rest := by
    simp [frameHeader, be32, be16]
  rw [e, ← decodeOutcome_eq _ _ _ State.reset, decodeOutcome, rxRead, rxOutcome_header, fromBe32_be32,
    fromBe16_be16, if_neg (by simp)]

/-- R101 steps 9 to 11 on a payload, any checksum field and any bytes after it. -/
theorem validateRest_frame (t : Byte) (p : Bytes) (ck : Word16) (more : Bytes) :
    validateRest t (p.length + 2) (p ++ be16 ck ++ more) =
      if ck ≠ checksumOf t p then .error .checksumMismatch else .ok p := by
  have t1 : (p ++ be16 ck ++ more).take p.length = p := by simp
  have m0 : memReadByte (p ++ be16 ck ++ more) p.length = ck.extractLsb' 8 8 := by simp [memReadByte, be16]
  have m1 : memReadByte (p ++ be16 ck ++ more) (p.length + 1) = ck.extractLsb' 0 8 := by simp [memReadByte, be16]
  have hl : ¬ (p ++ be16 ck ++ more).length < p.length + 2 := by
    simp only [List.length_append, be16_length]
    omega
  rw [validateRest, if_neg hl, show p.length + 2 - 2 = p.length by omega,
    show p.length + 2 - 1 = p.length + 1 by omega, m0, m1, t1, fromBe16_be16]

theorem lenField_toNat (p : Bytes) (hp : p.length ≤ maxPayload) : (lenField p).toNat = p.length + 2 := by
  have hm : p.length ≤ 65533 := hp
  rw [lenField, BitVec.toNat_ofNat]
  omega

/-- R101 on a whole frame with any checksum field. -/
theorem validate_frame (a ea : Word32) (t et : Byte) (p : Bytes) (ck : Word16) (more : Bytes)
    (hp : p.length ≤ maxPayload) :
    validate (frameHeader a t (lenField p) ++ (p ++ be16 ck ++ more)) ea et =
      if a ≠ ea then .error .addressMismatch
      else if t ≠ et then .error .typeMismatch
      else if ck ≠ checksumOf t p then .error .checksumMismatch
      else .ok p := by
  rw [validate_header, lenField_toNat p hp, if_neg (c := _ < 2) (by omega), validateRest_frame]

/-- The receive machine works on its own registers, CSUM and RXPAY alone. -/
theorem rxFeed_congr (bs : Bytes) : ∀ s u : State, s.rx = u.rx → s.csum = u.csum → s.rxpay = u.rxpay →
    (rxFeed bs s).rx = (rxFeed bs u).rx ∧ (rxFeed bs s).csum = (rxFeed bs u).csum ∧
      (rxFeed bs s).rxpay = (rxFeed bs u).rxpay := by
  induction bs with
  | nil => intro s u h1 h2 h3; exact ⟨h1, h2, h3⟩
  | cons b bs ih =>
    intro s u h1 h2 h3
    exact ih _ _ (by simp [rxStep, h1, h2]) (by simp [rxStep, h1, h2]) (by simp [rxStep, h1, h3])

/-- What the machine makes of a read depends on the bytes, the two expected values and the receive registers alone. -/
theorem rxRead_congr (raw : Bytes) (ea : Word32) (et : Byte) (s u : State) (h : s.rx = u.rx) :
    (rxRead raw ea et s).rx = (rxRead raw ea et u).rx ∧ (rxRead raw ea et s).csum = (rxRead raw ea et u).csum :=
  have h := rxFeed_congr raw (rxStart ea et { s with raw := raw }) (rxStart ea et { u with raw := raw })
    (by simp [rxStart, csumClear, h]) rfl rfl
  ⟨h.1, h.2.1⟩

theorem isIdle_iff (s : State) :
    isIdle s = true ↔ s.busy = false ∧ s.tx.txph = .idle ∧ s.rx.rxph = .idle ∧ s.sq.seq = .idle := by
  simp only [isIdle, Bool.and_eq_true, Bool.not_eq_eq_eq_not, Bool.not_true, beq_iff_eq]
  tauto

/-- Between two operations, bringing the machines to idle changes nothing. -/
theorem idleMachines_of_isIdle {s : State} (h : isIdle s = true) :
    ({ s.tx with txph := .idle } : TxMachine) = s.tx ∧ ({ s.rx with rxph := .idle } : RxMachine) = s.rx ∧
      ({ s.sq with seq := .idle } : Sequencer) = s.sq := by
  obtain ⟨_, h2, h3, h4⟩ := (isIdle_iff s).1 h
  exact ⟨by rw [← h2], by rw [← h3], by rw [← h4]⟩

end Sys2Proof.Laws
end

