-- ==== Sys2Proof/Laws/Memory.lean ====
section
/-! SUPPORT. The canonical form of the block's byte spaces (10_state.md R33; log entry 19): the reset state has it, and
every operation that writes a space keeps it. -/

namespace Sys2Proof.Laws

open Sys2Proof.Machine

theorem Memory.wf_reset : Memory.wf State.reset = true := by decide

theorem Memory.wf_iff (s : State) :
    Memory.wf s = true ↔ s.txpay.length ≤ maxPayload ∧ s.rxpay.length ≤ maxPayload ∧
      s.frame.length ≤ maxPayload + frameOverhead := by
  simp only [Memory.wf, Bool.and_eq_true, decide_eq_true_eq, and_assoc]

/-- TXPAY and FRAME (R110 to R116). -/
theorem Memory.wf_encodeFrame (a : Word32) (t : Byte) (p : Bytes) (s : State) (hp : p.length ≤ maxPayload)
    (h : Memory.wf s = true) : Memory.wf (encodeFrame a t p s) = true := by
  rw [Memory.wf_iff] at h ⊢
  rw [encodeFrame_eq _ _ _ _ hp]
  exact ⟨hp, h.2.1, by rw [wireFrame_length]; exact Nat.add_le_add_right hp _⟩

/-- RAW and RXPAY (R117 to R125). -/
theorem Memory.wf_decodeBuffer (raw : Bytes) (ea : Word32) (et : Byte) (s : State) (h : Memory.wf s = true) :
    Memory.wf (decodeBuffer raw ea et s) = true := by
  rw [Memory.wf_iff] at h ⊢
  rw [decodeBuffer_eq]
  refine ⟨h.1, ?_, h.2.2⟩
  rcases validate_cases raw ea et with ⟨p, e, hp⟩ | ⟨k, _, e⟩
  · rw [e]; exact hp
  · rw [e]; exact Nat.zero_le _

theorem Memory.wf_sendFrame (t : Byte) (p : Bytes) (s : State) (hp : p.length ≤ maxPayload)
    (h : Memory.wf s = true) : Memory.wf (sendFrame t p s) = true :=
  Memory.wf_encodeFrame s.addr t p s hp h

theorem Memory.wf_receiveFrame (et : Byte) (m : Nat) (s : State) (h : Memory.wf s = true) :
    Memory.wf (receiveFrame et m s) = true := by
  unfold receiveFrame
  split
  · exact h
  · exact Memory.wf_decodeBuffer _ _ _ _ h

/-- BULK and the sequencer (R184 to R189). -/
theorem Memory.wf_dlStep (s : State) (h : Memory.wf s = true) : Memory.wf (dlStep s).1 = true := by
  have hr := Memory.wf_receiveFrame (bulkType s.sq) (s.sq.pktsz.toNat + frameOverhead) s h
  unfold dlStep
  dsimp only
  split
  · exact hr
  · split
    · exact hr
    · split <;> exact hr

theorem Memory.wf_ulStep (s : State) (hs : pktszLegal s = true) (h : Memory.wf s = true) :
    Memory.wf (ulStep s).1 = true := by
  have hp : (ulChunk s).length ≤ maxPayload := by
    simp only [pktszLegal, decide_eq_true_eq] at hs
    simp only [ulChunk_eq, chunkLen, List.length_take]
    omega
  have hr := Memory.wf_sendFrame (bulkType s.sq) (ulChunk s) s hp h
  unfold ulStep
  dsimp only
  generalize sendFrame (bulkType s.sq) (ulChunk s) s = t at hr ⊢
  split
  · exact hr
  · split <;> exact hr

/-- What ends an operation, what refuses one, and what the link and the host do write no space but by a reset. -/
theorem Memory.wf_conclude (r : Option (Except ErrorKind OpValue)) (s : State) (h : Memory.wf s = true) :
    Memory.wf (conclude r s) = true := by
  match r with
  | none => exact h
  | some (.ok _) => exact h
  | some (.error _) => exact h

theorem Memory.wf_refuse (r : RefuseReason) (s : State) : Memory.wf (refuse r s) = Memory.wf s := rfl
theorem Memory.wf_accept (s : State) : Memory.wf (accept s) = Memory.wf s := rfl
theorem Memory.wf_arrive (bs : Bytes) (s : State) : Memory.wf (arrive bs s) = Memory.wf s := rfl
theorem Memory.wf_closeChannel (s : State) : Memory.wf (closeChannel s) = Memory.wf s := rfl
theorem Memory.wf_hostReset (s : State) : Memory.wf (hostReset s) = true := rfl


end Sys2Proof.Laws
end

