-- ==== Sys2Proof/Laws/PerInstr.lean ====
section
/-! SUPPORT. RowPattern: every instruction's bytes carry the fixed bits of its row of spec/opcode_table.json
(30_encoding.md R70, R71, R74, R83). -/

namespace Sys2Proof.Laws.RowPattern

/-- A host operation's byte string starts with the byte whose low half is OP; a frame's with the start code, and its
seventh byte is the type code. -/
def opByte (i : Instr) (op : Byte) : Prop := (encode i).head? = some op

def frameRow (i : Instr) (code : Byte) : Prop := (encode i).take 2 = [0xEF, 0x01] ∧ (encode i)[6]? = some code

def Statement : Instr → Prop
  | .encode a t p => opByte (.encode a t p) 0x00
  | .decode raw ea et => opByte (.decode raw ea et) 0x01
  | .checksum t p => opByte (.checksum t p) 0x02
  | .openChannel c a tmo => opByte (.openChannel c a tmo) 0x03
  | .sendCommand p => opByte (.sendCommand p) 0x04
  | .receive et m => opByte (.receive et m) 0x05
  | .transfer p e => opByte (.transfer p e) 0x06
  | .setAddress a => opByte (.setAddress a) 0x07
  | .download n sz => opByte (.download n sz) 0x08
  | .upload b sz => opByte (.upload b sz) 0x09
  | .frameCommand a len body => frameRow (.frameCommand a len body) 0x01
  | .frameData a len body => frameRow (.frameData a len body) 0x02
  | .frameAck a len body => frameRow (.frameAck a len body) 0x07
  | .frameEndData a len body => frameRow (.frameEndData a len body) 0x08

theorem encode (a : Word32) (t : Byte) (p : Bytes) : Statement (.encode a t p) := rfl
theorem decode (raw : Bytes) (ea : Word32) (et : Byte) : Statement (.decode raw ea et) := rfl
theorem checksum (t : Byte) (p : Bytes) : Statement (.checksum t p) := rfl
theorem openChannel (c : Nat) (a : Word32) (tmo : Nat) : Statement (.openChannel c a tmo) := rfl
theorem sendCommand (p : Bytes) : Statement (.sendCommand p) := rfl
theorem receive (et : Byte) (m : Nat) : Statement (.receive et m) := rfl
theorem transfer (p : Bytes) (e : Nat) : Statement (.transfer p e) := rfl
theorem setAddress (a : Word32) : Statement (.setAddress a) := rfl
theorem download (n sz : Nat) : Statement (.download n sz) := rfl
theorem upload (b : Bytes) (sz : Nat) : Statement (.upload b sz) := rfl
theorem frameCommand (a : Word32) (len : Word16) (body : Bytes) : Statement (.frameCommand a len body) := ⟨rfl, rfl⟩
theorem frameData (a : Word32) (len : Word16) (body : Bytes) : Statement (.frameData a len body) := ⟨rfl, rfl⟩
theorem frameAck (a : Word32) (len : Word16) (body : Bytes) : Statement (.frameAck a len body) := ⟨rfl, rfl⟩
theorem frameEndData (a : Word32) (len : Word16) (body : Bytes) : Statement (.frameEndData a len body) := ⟨rfl, rfl⟩

end Sys2Proof.Laws.RowPattern
end

