-- ==== Sys2Proof/Tests/Slice0.lean ====
section
/-! SUPPORT. The model's own tests. Expected values are the spec's: encodings written out from 30_encoding.md, results
from 95_test_vectors.md (the vector's name stands beside each). The last part holds, for every statement with
hypotheses, a state and operands that meet them, clause by clause (a conjunct for a clause). -/

namespace Sys2Proof.Tests

open Sys2Proof.Machine

/-! ### Helpers -/

/-- The next state, if there is one. -/
def after (o : Host.Outcome State Fault Refusal) : Option State :=
  match o with
  | .next t => some t
  | .fault _ => none
  | .refused _ => none

/-- The result delivered, and ERR. -/
def seen (o : Host.Outcome State Fault Refusal) : Option (Option OpResult × BitVec 4) :=
  (after o).map fun t => (t.result, t.err)

/-- `OPENED = 1`, `ADDR = FFFFFFFF` (95_test_vectors.md part 5), and the channel's next answers. -/
def session (es : List ChanEvent) : State :=
  { State.reset with opened := true, addr := 0xFFFFFFFF, chan := { State.reset.chan with script := es } }

/-- The channel's answer `{read: bs}`. -/
def rd (bs : Bytes) : ChanEvent := quietEvent bs bs.length 0

/-- The channel's answer `{write: n}`. -/
def wr (n : Nat) : ChanEvent := quietEvent [] 0 n

def v1 : Bytes := [0xEF, 0x01, 0xFF, 0xFF, 0xFF, 0xFF, 0x01, 0x00, 0x03, 0x01, 0x00, 0x05]
def v2 : Bytes := [0xEF, 0x01, 0xFF, 0xFF, 0xFF, 0xFF, 0x07, 0x00, 0x03, 0x00, 0x00, 0x0A]
def d1 : Bytes := [0xEF, 0x01, 0xFF, 0xFF, 0xFF, 0xFF, 0x02, 0x00, 0x06, 0x01, 0x02, 0x03, 0x04, 0x00, 0x12]
def d2 : Bytes := [0xEF, 0x01, 0xFF, 0xFF, 0xFF, 0xFF, 0x02, 0x00, 0x06, 0x05, 0x06, 0x07, 0x08, 0x00, 0x22]
def e3 : Bytes := [0xEF, 0x01, 0xFF, 0xFF, 0xFF, 0xFF, 0x08, 0x00, 0x06, 0x09, 0x0A, 0x0B, 0x0C, 0x00, 0x38]

/-! ### Well-formedness -/

theorem test_wellFormed_frame : wellFormed (.frameAck 0 2 [1, 2]) = true := by decide
theorem test_illFormed_frameCommand : wellFormed (.frameCommand 0 2 [1]) = false := by decide
theorem test_illFormed_frameData : wellFormed (.frameData 0 0 [1]) = false := by decide
theorem test_illFormed_frameAck : wellFormed (.frameAck 0 3 [1, 2]) = false := by decide
theorem test_illFormed_frameEndData : wellFormed (.frameEndData 0 1 []) = false := by decide

/-! ### Decoding: bytes written out from R70 (frames) and R83 (operations) -/

theorem test_decode_encode : decode [0x00, 0x12, 0x34, 0x56, 0x78, 0x01, 0x01, 0x2A] =
    .ok (.encode 0x12345678 0x01 [0x2A], []) := by decide
theorem test_decode_decode : decode [0x01, 0x01, 0xEF, 0x00, 0x00, 0x00, 0x09, 0x07] =
    .ok (.decode [0xEF] 9 0x07, []) := by decide
theorem test_decode_checksum : decode [0x02, 0x08, 0x02, 0xAA, 0xBB] = .ok (.checksum 0x08 [0xAA, 0xBB], []) := by
  decide
theorem test_decode_open : decode [0x03, 0x05, 0xFF, 0xFF, 0xFF, 0xFF, 0x81, 0x01] =
    .ok (.openChannel 5 0xFFFFFFFF 129, []) := by decide
theorem test_decode_sendCommand : decode [0x04, 0x01, 0x13] = .ok (.sendCommand [0x13], []) := by decide
theorem test_decode_receive : decode [0x05, 0x07, 0x0C] = .ok (.receive 0x07 12, []) := by decide
theorem test_decode_transfer : decode [0x06, 0x01, 0x01, 0x0C] = .ok (.transfer [0x01] 12, []) := by decide
theorem test_decode_setAddress : decode [0x07, 0x01, 0x02, 0x03, 0x04] = .ok (.setAddress 0x01020304, []) := by decide
theorem test_decode_download : decode [0x08, 0x03, 0x04] = .ok (.download 3 4, []) := by decide
theorem test_decode_upload : decode [0x09, 0x02, 0xA0, 0xA1, 0x04] = .ok (.upload [0xA0, 0xA1] 4, []) := by decide
theorem test_decode_frameCommand : decode (v1 ++ [0xAA]) =
    .ok (.frameCommand 0xFFFFFFFF 3 [0x01, 0x00, 0x05], [0xAA]) := by decide
theorem test_decode_frameData : decode d1 = .ok (.frameData 0xFFFFFFFF 6 [1, 2, 3, 4, 0x00, 0x12], []) := by decide
theorem test_decode_frameAck : decode v2 = .ok (.frameAck 0xFFFFFFFF 3 [0x00, 0x00, 0x0A], []) := by decide
theorem test_decode_frameEndData : decode e3 =
    .ok (.frameEndData 0xFFFFFFFF 6 [9, 10, 11, 12, 0x00, 0x38], []) := by decide
/-- R84, R81, R71: what is reserved is rejected by name. -/
theorem test_decode_reserved : decode [0x0A] = .error (.badOp 0xA) ∧
    decode [0xEF, 0x01, 0, 0, 0, 0, 0x05, 0, 0] = .error (.reservedType 0x05) ∧
    decode [0xEF, 0x00, 0, 0, 0, 0, 0x01, 0, 0] = .error .badStart := by decide
/-- R79: the 72-bit view of a header. -/
theorem test_decodeTableWord :
    decodeTableWord 72 0xEF0112345678070001 = some (.frameAck 0x12345678 1 [0]) := by decide
theorem test_fetchWord_request :
    after (step (State.reset.withFetchWord 8 0x7)) = after (exec (.setAddress 0) State.reset) := by decide
theorem test_fetchWord_frame :
    after (step (State.reset.withFetchWord 72 0xEF0100000000080000)) =
      after (exec (.frameEndData 0 0 []) State.reset) := by decide

/-! ### One step of each operation (95_test_vectors.md) -/

/-- V1. -/
theorem test_encode : seen (exec (.encode 0xFFFFFFFF 0x01 [0x01]) State.reset) =
    some (some (.ok (.bytes v1)), 0) := by decide
/-- V12: refused, REF is 3. -/
theorem test_encode_badType :
    (after (exec (.encode 0xFFFFFFFF 0x05 [0x01]) State.reset)).map (fun t => (t.result, t.ref)) =
      some (some (.refused .badType), 3) := by decide
/-- V28: the address is compared before the type. -/
theorem test_decode_addressFirst : seen (exec (.decode v2 0x01020304 0x01) State.reset) =
    some (some (.error .addressMismatch), 5) := by decide
/-- V67: surplus bytes are ignored. -/
theorem test_decode_surplus : seen (exec (.decode (v2 ++ [0xAA, 0xBB]) 0xFFFFFFFF 0x07) State.reset) =
    some (some (.ok (.bytes [0x00])), 0) := by decide
/-- V46. -/
theorem test_checksum : seen (exec (.checksum 0x02 [0xDE, 0xAD, 0xBE, 0xEF]) State.reset) =
    some (some (.ok (.word 0x0340)), 0) := by decide
/-- V54: the order of payload bytes is not seen. -/
theorem test_checksum_order : seen (exec (.checksum 0x02 [4, 3, 2, 1]) State.reset) =
    some (some (.ok (.word 0x0012)), 0) := by decide
/-- P1, line 1. -/
theorem test_open :
    (after (exec (.openChannel 0 0xFFFFFFFF 9)
      { State.reset with chan := { State.reset.chan with script := [wr 0] } })).map
        (fun t => (t.opened, t.addr, t.timeout)) = some (true, 0xFFFFFFFF, 9) := by decide
/-- V95: ADDR is unchanged. -/
theorem test_open_again : (after (exec (.openChannel 0 0 0) (session []))).map (fun t => (t.addr, t.ref)) =
    some (0xFFFFFFFF, 2) := by decide
/-- V81: the accepted bytes are on the link. -/
theorem test_sendCommand_short :
    (after (exec (.sendCommand [0x01]) (session [wr 7]))).map (fun t => (t.chan.txlog, t.err)) =
      some ([0xEF, 0x01, 0xFF, 0xFF, 0xFF, 0xFF, 0x01], 2) := by decide
/-- V80. -/
theorem test_sendCommand :
    (after (exec (.sendCommand [0x01]) (session [wr 12]))).map (fun t => (t.chan.txlog, t.result)) =
      some (v1, some (.ok .unit)) := by decide
/-- V83. -/
theorem test_receive : seen (exec (.receive 0x07 12) (session [rd v2])) =
    some (some (.ok (.bytes [0x00])), 0) := by decide
/-- V86: the read is cut at 8 bytes; the other four stay pending. -/
theorem test_receive_cut :
    (after (exec (.receive 0x07 8) (session [rd v2]))).map (fun t => (t.result, t.chan.pending)) =
      some (some (.error .headerMismatch), [0x03, 0x00, 0x00, 0x0A]) := by decide
/-- V88: the channel calls in order. -/
theorem test_transfer :
    (after (exec (.transfer [0x01] 12) (session [wr 0, wr 0, wr 12, rd v2]))).map
        (fun t => (t.result, t.chan.calls)) =
      some (some (.ok (.bytes [0x00])), [.flushInput, .flushOutput, .write v1, .read 12 0]) := by decide
/-- V89: no read is made. -/
theorem test_transfer_short :
    (after (exec (.transfer [0x01] 12) (session [wr 0, wr 0, wr 3, rd v2]))).map
        (fun t => (t.result, t.chan.script)) = some (some (.error .writeError), [rd v2]) := by decide
/-- V91. -/
theorem test_setAddress :
    (after (exec (.setAddress 0x01020304) (session []))).map (fun t => (t.addr, t.chan)) =
      some (0x01020304, (session []).chan) := by decide
/-- V93. -/
theorem test_setAddress_notOpen : (after (exec (.setAddress 1) State.reset)).map (fun t => (t.addr, t.ref)) =
    some (0, 1) := by decide
/-- V100. -/
theorem test_download : seen (exec (.download 3 4) (session [rd d1, rd d2, rd e3])) =
    some (some (.ok (.bytes [1, 2, 3, 4, 5, 6, 7, 8, 9, 10, 11, 12])), 0) := by decide
/-- V103: an EndData frame too early; no third read, nothing kept. -/
theorem test_download_typeMismatch :
    (after (exec (.download 3 4) (session [rd d1, rd e3, rd d2]))).map
        (fun t => (t.result, t.bulk, t.chan.script)) =
      some (some (.error .typeMismatch), [], [rd d2]) := by decide
/-- V112. -/
theorem test_upload :
    (after (exec (.upload [0xA0, 0xA1, 0xA2, 0xA3, 0xA4, 0xA5, 0xA6, 0xA7, 0xA8, 0xA9] 4)
      (session [wr 15, wr 15, wr 13]))).map (fun t => (t.result, t.chan.txlog)) =
      some (some (.ok .unit),
        [0xEF, 0x01, 0xFF, 0xFF, 0xFF, 0xFF, 0x02, 0x00, 0x06, 0xA0, 0xA1, 0xA2, 0xA3, 0x02, 0x8E] ++
        [0xEF, 0x01, 0xFF, 0xFF, 0xFF, 0xFF, 0x02, 0x00, 0x06, 0xA4, 0xA5, 0xA6, 0xA7, 0x02, 0x9E] ++
        [0xEF, 0x01, 0xFF, 0xFF, 0xFF, 0xFF, 0x08, 0x00, 0x04, 0xA8, 0xA9, 0x01, 0x5D]) := by decide
/-- V116. -/
theorem test_upload_empty : (after (exec (.upload [] 4) (session []))).map (fun t => (t.result, t.ref)) =
    some (some (.refused .emptyBuffer), 7) := by decide
/-- A frame waits behind what is pending (10_state.md R34). -/
theorem test_frameCommand :
    (after (exec (.frameCommand 0xFFFFFFFF 3 [0x01, 0x00, 0x05])
      { State.reset with chan := { State.reset.chan with pending := [0xAA] } })).map (fun t => t.chan.pending) =
      some (0xAA :: v1) := by decide
theorem test_frameData :
    (after (exec (.frameData 0xFFFFFFFF 6 [1, 2, 3, 4, 0x00, 0x12]) State.reset)).map (fun t => t.chan.pending) =
      some d1 := by decide
theorem test_frameAck :
    (after (exec (.frameAck 0xFFFFFFFF 3 [0x00, 0x00, 0x0A]) State.reset)).map (fun t => t.chan.pending) =
      some v2 := by decide
theorem test_frameEndData :
    (after (exec (.frameEndData 0xFFFFFFFF 6 [9, 10, 11, 12, 0x00, 0x38]) State.reset)).map
      (fun t => t.chan.pending) = some e3 := by decide
/-- The trace of V1: FRAME, CSUM and the phase after step 9. -/
theorem test_transmit_trace :
    let s := txRun 9 (txStart 0xFFFFFFFF 0x01 [0x01] State.reset)
    (s.frame, s.csum, s.tx.txph) = (v1.take 9, 0x0004, .pay) := by decide
/-- The trace of V2: after the length bytes, and at the end. -/
theorem test_receive_trace :
    let s := rxFeed (v2.take 9) (rxStart 0xFFFFFFFF 0x07 State.reset)
    (s.csum, s.rx.rxlen, s.rx.rxph) = (0x000A, 0x0003, .pay) ∧ (rxFeed (v2.drop 9) s).rx.rxph = .done := by decide


/-! ### Every statement with hypotheses is met by a state and operands

One conjunct for a clause, at a boundary of its range. `∃ t, exec i s = .next t ∧ …` meets a hypothesis
`exec i s = .next t`. -/

/-- The longest payload (R7), and one byte more. -/
def zeros (n : Nat) : Bytes := List.replicate n 0

theorem witness_DecodeEncodeRoundTrip :
    wellFormed (.frameData 0 2 [1, 2]) = true ∧ wellFormed (.frameCommand 0 0 []) = true ∧
      wellFormed (.download 0 65534) = true := by decide

theorem witness_DecodedFrameHasItsBytes :
    decodeFrame (v1 ++ [0xAA]) = .ok (.frameCommand 0xFFFFFFFF 3 [0x01, 0x00, 0x05], [0xAA]) ∧
      decodeFrame [0xEF, 0x01, 0, 0, 0, 0, 0x08, 0, 0] = .ok (.frameEndData 0 0 [], []) := by decide

theorem witness_StepRunsDecodedInstruction :
    (({ State.reset with inputs := [.request [0x07, 1, 2, 3, 4, 9]] } : State).inputs =
        .request [0x07, 1, 2, 3, 4, 9] :: [] ∧
      decodeRequest [0x07, 1, 2, 3, 4, 9] = .ok (.setAddress 0x01020304, [9])) ∧
    (({ State.reset with inputs := [.link (v1 ++ v2)] } : State).inputs = .link (v1 ++ v2) :: [] ∧
      decodeFrame (v1 ++ v2) = .ok (.frameCommand 0xFFFFFFFF 3 [0x01, 0x00, 0x05], v2)) ∧
    decodeFrame v2 = .ok (.frameAck 0xFFFFFFFF 3 [0x00, 0x00, 0x0A], []) := by decide

theorem witness_StepOnOtherInputs :
    (({ State.reset with inputs := [.link [0xEF]] } : State).inputs = .link [0xEF] :: [] ∧
      decodeFrame [0xEF] = .error .truncated) ∧
    ({ State.reset with inputs := [.closeChannel] } : State).inputs = .closeChannel :: [] ∧
    (({ State.reset with inputs := [.request []] } : State).inputs = .request [] :: [] ∧
      decodeRequest [] = .error .empty ∧ ∀ op, DecodeError.empty ≠ .badOp op) ∧
    (({ State.reset with inputs := [.request [0x07, 1, 2, 3]] } : State).inputs = .request [0x07, 1, 2, 3] :: [] ∧
      decodeRequest [0x07, 1, 2, 3] = .error .truncated ∧ ∀ op, DecodeError.truncated ≠ .badOp op) ∧
    (({ State.reset with inputs := [.request [0xFF]] } : State).inputs = .request [0xFF] :: [] ∧
      decodeRequest [0xFF] = .error (.badOp 0xF)) ∧
    ({ session [] with inputs := [.reset] } : State).inputs = .reset :: [] ∧ State.reset.inputs = [] := by decide

theorem witness_ReservedSelectorIsRefused :
    ({ State.reset with inputs := [.request [0x0A]] } : State).inputs = .request (0x0A :: []) :: [] ∧
      10 ≤ (0x0A : Byte).toNat % 16 ∧ 10 ≤ (0xFF : Byte).toNat % 16 := by decide

theorem witness_HostResetAbandonsTheSession :
    ({ session [] with inputs := [.reset] } : State).inputs = .reset :: [] := by decide

theorem witness_EncodeOperation :
    isIdle State.reset = true ∧ (0x03 : Byte) ∉ [0x01, 0x02, 0x07, 0x08] ∧
      ((0x01 : Byte) ∈ [0x01, 0x02, 0x07, 0x08] ∧ 65533 < (zeros 65534).length) ∧
      ((0x08 : Byte) ∈ [0x01, 0x02, 0x07, 0x08] ∧ (zeros 65533).length ≤ 65533) := by
  rw [zeros, zeros, List.length_replicate, List.length_replicate]
  decide

theorem witness_DecodeOperationByFirstFailure :
    (isIdle State.reset = true ∧ (0x05 : Byte) ∉ [0x01, 0x02, 0x07, 0x08] ∧ (0x07 : Byte) ∈ [0x01, 0x02, 0x07, 0x08]) ∧
    ¬ ((0xEF : Byte) = 0xEF ∧ (0x00 : Byte) = 0x01) ∧ ([1, 2, 3] : Bytes).length < 4 ∧
    (0xFFFFFFFE : Word32) ≠ 0xFFFFFFFF ∧ (0x02 : Byte) ≠ 0x07 ∧ ([0] : Bytes).length < 2 ∧
    ((1 : Word16).toNat < 2 ∨ ([] : Bytes).length < (1 : Word16).toNat) ∧
    ((3 : Word16).toNat < 2 ∨ ([0, 0] : Bytes).length < (3 : Word16).toNat) ∧
    ((zeros 65533).length ≤ 65533 ∧ (0x000B : Word16) ≠ checksumOf 0x07 [0x00]) := by
  rw [zeros, List.length_replicate]
  decide

theorem witness_ChecksumOperation :
    isIdle State.reset = true ∧ (0x03 : Byte) ∉ [0x01, 0x02, 0x07, 0x08] ∧
      ((0x02 : Byte) ∈ [0x01, 0x02, 0x07, 0x08] ∧ 65533 < (zeros 65534).length) ∧
      ((0x01 : Byte) ∈ [0x01, 0x02, 0x07, 0x08] ∧ (zeros 65533).length ≤ 65533) := by
  rw [zeros, zeros, List.length_replicate, List.length_replicate]
  decide

theorem witness_OneCoveredByteChangesTheSum :
    (([0x07, 0x00, 0x03, 0x00] : Bytes)[3]? = some 0x00 ∧ (0x01 : Byte) ≠ 0x00) ∧
    (isIdle State.reset = true ∧ ([0x00] : Bytes).length ≤ 65533 ∧
      (0x000B : Word16) ≠ checksumOf PacketType.ack.code [0x00]) := by decide

theorem witness_ChecksumIgnoresPayloadOrder : ([1, 2, 3, 4] : Bytes).Perm [4, 3, 2, 1] := by decide

theorem witness_EncodeThenDecodeReturnsPayload : isIdle State.reset = true ∧ (zeros 65533).length ≤ 65533 := by
  rw [zeros, List.length_replicate]
  decide

theorem witness_CorruptedFramesAreDetected :
    (isIdle State.reset = true ∧ ([0x00, 0x09] : Bytes).length ≤ 65533) ∧
    ¬ ((0xEF : Byte) = 0xEF ∧ (0x00 : Byte) = 0x01) ∧ (0 : Word32) ≠ 1 ∧ (0x01 : Byte) ≠ PacketType.ack.code ∧
    (([0x00, 0x09] : Bytes)[1]? = some 0x09 ∧ (0x0A : Byte) ≠ 0x09) ∧
    (0x0015 : Word16) ≠ checksumOf PacketType.ack.code [0x00, 0x09] ∧
    ((1 : Word16).toNat < 2 ∨ (lenField [0x00, 0x09]).toNat < (1 : Word16).toNat) ∧
    ((5 : Word16).toNat < 2 ∨ (lenField [0x00, 0x09]).toNat < (5 : Word16).toNat) ∧
    (2 ≤ (2 : Word16).toNat ∧ (2 : Word16).toNat < (lenField [0x00, 0x09]).toNat) ∧
    (2 ≤ (3 : Word16).toNat ∧ (3 : Word16).toNat < (lenField [0x00, 0x09]).toNat) ∧
    (([0x09, 0x00] : Bytes).length = ([0x00, 0x09] : Bytes).length ∧
      checksumOf PacketType.ack.code [0x09, 0x00] = checksumOf PacketType.ack.code [0x00, 0x09]) := by decide

theorem witness_ByteSerialLevelAgrees :
    ((zeros 65533).length ≤ 65533 ∧ 65544 ≤ (zeros 65533).length + 11) ∧
      (([] : Bytes).length ≤ 65533 ∧ 0 ≤ ([] : Bytes).length + 11) := by
  rw [zeros, List.length_replicate]
  decide

/-- A state whose transmit machine is in the phase `ph` with sub-index `i`. -/
def transmitting (ph : TxPhase) (i : BitVec 2) : State :=
  { State.reset with
    txpay := [0x01]
    tx := { txph := ph, txi := i, txa := 0xFFFFFFFF, txtyp := 0x01, txlen := 3, txcnt := 0 } }

theorem witness_TransmitStepByPhase :
    ((transmitting .sc 0).tx.txph = .sc ∧ (transmitting .sc 0).tx.txi = 0) ∧
    ((transmitting .sc 1).tx.txph = .sc ∧ (transmitting .sc 1).tx.txi ≠ 0) ∧
    ((transmitting .addr 0).tx.txph = .addr ∧ (transmitting .addr 0).tx.txi = 0) ∧
    ((transmitting .addr 1).tx.txph = .addr ∧ (transmitting .addr 1).tx.txi = 1) ∧
    ((transmitting .addr 2).tx.txph = .addr ∧ (transmitting .addr 2).tx.txi = 2) ∧
    ((transmitting .addr 3).tx.txph = .addr ∧ (transmitting .addr 3).tx.txi = 3) ∧
    (transmitting .type 0).tx.txph = .type ∧
    ((transmitting .len 0).tx.txph = .len ∧ (transmitting .len 0).tx.txi = 0) ∧
    ((transmitting .len 1).tx.txph = .len ∧ (transmitting .len 1).tx.txi ≠ 0) ∧
    ((transmitting .pay 0).tx.txph = .pay ∧
      (transmitting .pay 0).txpay[(transmitting .pay 0).tx.txcnt.toNat]? = some 0x01) ∧
    ((transmitting .ck 0).tx.txph = .ck ∧ (transmitting .ck 0).tx.txi = 0) ∧
    ((transmitting .ck 1).tx.txph = .ck ∧ (transmitting .ck 1).tx.txi ≠ 0) := by decide

/-- A state whose receive machine is in the phase `ph`, sub-index `i`, with `sh` shifted in, `done` payload bytes
received of a frame with length field `len`. -/
def receiving (ph : RxPhase) (i : BitVec 2) (sh : Word32) (len done : Word16) : State :=
  { State.reset with
    csum := 0x000A
    rx := { rxph := ph, rxi := i, shift := sh, ea := 0xFFFFFFFF, et := 0x07, rxlen := len, rxcnt := done,
            got := true, rxerr := 0 } }

/-- What SHIFT becomes when `b` comes in. -/
def shifted (s : State) (b : Byte) : Word32 := s.rx.shift <<< 8 ||| b.setWidth 32

theorem witness_ReceiveStepByPhase :
    ((receiving .sc 0 0 0 0).rx.rxph = .sc ∧ (receiving .sc 0 0 0 0).rx.rxi = 0) ∧
    ((receiving .sc 1 0xEF 0 0).rx.rxph = .sc ∧ (receiving .sc 1 0xEF 0 0).rx.rxi ≠ 0 ∧
      (shifted (receiving .sc 1 0xEF 0 0) 0x01).extractLsb' 0 16 = (0xEF01 : Word16)) ∧
    ((receiving .sc 1 0xEF 0 0).rx.rxph = .sc ∧ (receiving .sc 1 0xEF 0 0).rx.rxi ≠ 0 ∧
      (shifted (receiving .sc 1 0xEF 0 0) 0x00).extractLsb' 0 16 ≠ (0xEF01 : Word16)) ∧
    ((receiving .addr 2 0 0 0).rx.rxph = .addr ∧ (receiving .addr 2 0 0 0).rx.rxi.toNat < 3) ∧
    ((receiving .addr 3 0xFFFFFF 0 0).rx.rxph = .addr ∧ (receiving .addr 3 0xFFFFFF 0 0).rx.rxi = 3 ∧
      shifted (receiving .addr 3 0xFFFFFF 0 0) 0xFF = (receiving .addr 3 0xFFFFFF 0 0).rx.ea) ∧
    ((receiving .addr 3 0xFFFFFF 0 0).rx.rxph = .addr ∧ (receiving .addr 3 0xFFFFFF 0 0).rx.rxi = 3 ∧
      shifted (receiving .addr 3 0xFFFFFF 0 0) 0xFE ≠ (receiving .addr 3 0xFFFFFF 0 0).rx.ea) ∧
    ((receiving .type 0 0 0 0).rx.rxph = .type ∧ (0x07 : Byte) = (receiving .type 0 0 0 0).rx.et) ∧
    ((receiving .type 0 0 0 0).rx.rxph = .type ∧ (0x08 : Byte) ≠ (receiving .type 0 0 0 0).rx.et) ∧
    ((receiving .len 0 0 0 0).rx.rxph = .len ∧ (receiving .len 0 0 0 0).rx.rxi = 0) ∧
    ((receiving .len 1 0 0 0).rx.rxph = .len ∧ (receiving .len 1 0 0 0).rx.rxi ≠ 0 ∧
      ((shifted (receiving .len 1 0 0 0) 0x01).extractLsb' 0 16 : Word16).toNat < 2) ∧
    ((receiving .len 1 0 0 0).rx.rxph = .len ∧ (receiving .len 1 0 0 0).rx.rxi ≠ 0 ∧
      (shifted (receiving .len 1 0 0 0) 0x02).extractLsb' 0 16 = (2 : Word16)) ∧
    ((receiving .len 1 0 0 0).rx.rxph = .len ∧ (receiving .len 1 0 0 0).rx.rxi ≠ 0 ∧
      2 < ((shifted (receiving .len 1 0 0 0) 0x03).extractLsb' 0 16 : Word16).toNat) ∧
    ((receiving .pay 0 0 3 0).rx.rxph = .pay ∧
      (receiving .pay 0 0 3 0).rx.rxcnt + 1 = (receiving .pay 0 0 3 0).rx.rxlen - 2) ∧
    ((receiving .pay 0 0 0xFFFF 0xFFFB).rx.rxph = .pay ∧
      (receiving .pay 0 0 0xFFFF 0xFFFB).rx.rxcnt + 1 ≠ (receiving .pay 0 0 0xFFFF 0xFFFB).rx.rxlen - 2) ∧
    ((receiving .ck 0 0 0 0).rx.rxph = .ck ∧ (receiving .ck 0 0 0 0).rx.rxi = 0) ∧
    ((receiving .ck 1 0 0 0).rx.rxph = .ck ∧ (receiving .ck 1 0 0 0).rx.rxi ≠ 0 ∧
      (shifted (receiving .ck 1 0 0 0) 0x0A).extractLsb' 0 16 = (receiving .ck 1 0 0 0).csum) ∧
    ((receiving .ck 1 0 0 0).rx.rxph = .ck ∧ (receiving .ck 1 0 0 0).rx.rxi ≠ 0 ∧
      (shifted (receiving .ck 1 0 0 0) 0x0B).extractLsb' 0 16 ≠ (receiving .ck 1 0 0 0).csum) ∧
    ((receiving .done 0 0 0 0).rx.rxph = .done ∨ (receiving .done 0 0 0 0).rx.rxph = .fail) ∧
    ((receiving .fail 0 0 0 0).rx.rxph = .done ∨ (receiving .fail 0 0 0 0).rx.rxph = .fail) := by decide

/-- A closed session: the channel's next answer is `{open: ok}` or `{open: fail}`. -/
def unopened (answer : Bool) : State :=
  { State.reset with chan := { State.reset.chan with script := [{ quietEvent [] 0 0 with opens := answer }] } }

theorem witness_OpenOperation :
    (isIdle (session []) = true ∧ (session []).opened = true) ∧
    (isIdle (unopened true) = true ∧ (unopened true).opened = false ∧ openAnswer (unopened true).chan = true) ∧
    (isIdle (unopened false) = true ∧ (unopened false).opened = false ∧
      openAnswer (unopened false).chan = false) := by decide

theorem witness_SendCommandOperation :
    (isIdle State.reset = true ∧ State.reset.opened = false) ∧
    (isIdle (session []) = true ∧ (session []).opened = true ∧ 65533 < (zeros 65534).length) ∧
    (isIdle (session [wr 12]) = true ∧ (session [wr 12]).opened = true ∧ ([0x01] : Bytes).length ≤ 65533 ∧
      writeCount v1 (session [wr 12]).chan = ([0x01] : Bytes).length + 11) ∧
    writeCount v1 (session [wr 11]).chan < ([0x01] : Bytes).length + 11 := by
  rw [zeros, List.length_replicate]
  decide

theorem witness_ReceiveOperation :
    (isIdle State.reset = true ∧ State.reset.opened = false) ∧
    (isIdle (session []) = true ∧ (session []).opened = true ∧ (0x00 : Byte) ∉ [0x01, 0x02, 0x07, 0x08]) ∧
    ((0x07 : Byte) ∈ [0x01, 0x02, 0x07, 0x08] ∧
      readAnswer 12 (session [{ rd [] with closes := true, saysClosed := true }]).chan = none) ∧
    readAnswer 0 (session [rd v2]).chan = some [] ∧
    (([0x00] : Bytes).length ≤ 65533 ∧
      readAnswer 12 (session [rd v2]).chan = some (wireFrame (session [rd v2]).addr 0x07 [0x00] ++ [])) := by
  decide

theorem witness_TransferIsFlushSendReceive :
    (isIdle (session [wr 0, wr 0, wr 3]) = true ∧ (session [wr 0, wr 0, wr 3]).opened = true ∧
      ([0x01] : Bytes).length ≤ 65533 ∧
      ∃ t, exec (.sendCommand [0x01]) { session [wr 0, wr 0, wr 3] with
        chan := chanFlushOutput (chanFlushInput (session [wr 0, wr 0, wr 3]).chan) } = .next t ∧
        t.result = some (.error .writeError)) ∧
    (∃ t, exec (.sendCommand [0x01]) { session [wr 0, wr 0, wr 12] with
        chan := chanFlushOutput (chanFlushInput (session [wr 0, wr 0, wr 12]).chan) } = .next t ∧
        t.result = some (.ok .unit)) :=
  ⟨⟨by decide, by decide, by decide, _, rfl, by decide⟩, _, rfl, by decide⟩

/-- V88's state. -/
def exchanging : State := session [wr 0, wr 0, wr 12, rd v2]

theorem witness_TransferCompletes :
    (isIdle State.reset = true ∧ State.reset.opened = false) ∧
    (isIdle exchanging = true ∧ exchanging.opened = true ∧ 65533 < (zeros 65534).length) ∧
    (([0x01] : Bytes).length ≤ 65533 ∧ ([0x00] : Bytes).length ≤ 65533 ∧
      writeCount (wireFrame exchanging.addr 0x01 [0x01]) (chanFlushOutput (chanFlushInput exchanging.chan)) =
        (wireFrame exchanging.addr 0x01 [0x01]).length ∧
      readAnswer 12 (chanWrite (wireFrame exchanging.addr 0x01 [0x01])
        (chanFlushOutput (chanFlushInput exchanging.chan))) =
          some (wireFrame exchanging.addr 0x07 [0x00] ++ [])) := by
  rw [zeros, List.length_replicate]
  decide

theorem witness_SetAddressOperation :
    (isIdle State.reset = true ∧ State.reset.opened = false) ∧
      (isIdle (session []) = true ∧ (session []).opened = true) := by decide

theorem witness_AddressChangeTakesEffectAfterwards :
    ∃ t, isIdle (session [rd v2]) = true ∧ (session [rd v2]).opened = true ∧
      exec (.setAddress 0x01020304) (session [rd v2]) = .next t ∧
      (0xFFFFFFFF : Word32) ≠ 0x01020304 ∧
      readAnswer 12 t.chan = some (wireFrame 0xFFFFFFFF PacketType.ack.code [0x00]) ∧
      ([0x01] : Bytes).length ≤ 65533 ∧ ∃ u, exec (.sendCommand [0x01]) t = .next u :=
  ⟨_, by decide, by decide, rfl, by decide, by decide, by decide, _, rfl⟩

/-- The sequencer in a download of `n` packets of 4 bytes, at frame `i`. -/
def downloading (i n : Nat) (es : List ChanEvent) : State :=
  { session es with sq := { seq := .dl, idx := i, cntn := n, pktsz := 4, pos := 0 } }

theorem witness_DownloadStep :
    ((downloading 0 3 [rd []]).sq.seq = .dl ∧
      receiveOutcome (if 0 + 1 = 3 then 0x08 else 0x02) (4 + 11) (downloading 0 3 [rd []]) = .error .emptyRead) ∧
    ((downloading 1 3 [rd []]).sq.seq = .dl ∧ ¬ ((downloading 1 3 []).sq.idx + 1 = (downloading 1 3 []).sq.cntn) ∧
      receiveOutcome (if 1 + 1 = 3 then 0x08 else 0x02) (4 + 11)
        (downloading 1 3 [rd (wireFrame 0xFFFFFFFF 0x02 [])]) = .ok []) ∧
    ((downloading 2 3 [rd e3]).sq.idx + 1 = (downloading 2 3 [rd e3]).sq.cntn ∧
      receiveOutcome (if 2 + 1 = 3 then 0x08 else 0x02) (4 + 11) (downloading 2 3 [rd e3]) = .ok [9, 10, 11, 12]) ∧
    (receiveOutcome (if 1 + 1 = 3 then 0x08 else 0x02) (4 + 11) (downloading 1 3 [rd d2]) = .ok [5, 6, 7, 8] ∧
      ([5, 6, 7, 8] : Bytes).length ≠ 0) := by decide

/-- The sequencer in an upload of two packets, the second of one byte, at frame `i`. -/
def uploading (i : Nat) (w : Nat) : State :=
  { session [wr w] with
    bulk := [1, 2, 3, 4, 5]
    sq := { seq := .ul, idx := i, cntn := 2, pktsz := 4, pos := 4 * i } }

theorem witness_UploadStep :
    ((uploading 0 14).sq.seq = .ul ∧ min (uploading 0 14).sq.pktsz.toNat (5 - (uploading 0 14).sq.pos) ≤ 65533 ∧
      writeCount (wireFrame (uploading 0 14).addr 0x02 [1, 2, 3, 4]) (uploading 0 14).chan < 4 + 11) ∧
    ((uploading 1 12).sq.idx + 1 = (uploading 1 12).sq.cntn ∧
      writeCount (wireFrame (uploading 1 12).addr 0x08 [5]) (uploading 1 12).chan = 1 + 11) ∧
    (¬ ((uploading 0 15).sq.idx + 1 = (uploading 0 15).sq.cntn) ∧
      writeCount (wireFrame (uploading 0 15).addr 0x02 [1, 2, 3, 4]) (uploading 0 15).chan = 4 + 11) ∧
    ((uploading 1 12).sq.cntn = ceilDiv (uploading 1 12).bulk.length (uploading 1 12).sq.pktsz.toNat ∧
      1 ≤ (uploading 1 12).sq.pktsz.toNat ∧
      (uploading 1 12).sq.pos = (uploading 1 12).sq.idx * (uploading 1 12).sq.pktsz.toNat) := by decide

theorem witness_DownloadIsRepeatedReceive :
    (isIdle (session [rd d1, rd e3]) = true ∧ (session [rd d1, rd e3]).opened = true ∧ 1 ≤ 4 ∧ 65533 ≤ 65533) ∧
    (∃ t, exec (.receive 0x08 (4 + 11)) (session [rd e3]) = .next t) ∧
    (∃ t, exec (.receive 0x02 (4 + 11)) (session [rd []]) = .next t ∧ t.result = some (.error .emptyRead)) ∧
    (∃ t, exec (.receive 0x02 (4 + 11)) (session [rd (wireFrame 0xFFFFFFFF 0x02 [])]) = .next t ∧
      t.result = some (.ok (.bytes []))) ∧
    (∃ t v, exec (.receive 0x02 (4 + 11)) (session [rd d1, rd e3]) = .next t ∧
      t.result = some (.ok (.bytes [1, 2, 3, 4])) ∧ exec (.download (0 + 1) 4) t = .next v ∧
      v.result = some (.ok (.bytes [9, 10, 11, 12]))) ∧
    (∃ t v, exec (.receive 0x02 (4 + 11)) (session [rd d1, rd []]) = .next t ∧
      t.result = some (.ok (.bytes [1, 2, 3, 4])) ∧ exec (.download (0 + 1) 4) t = .next v ∧
      v.result = some (.error .emptyRead)) :=
  ⟨by decide, ⟨_, rfl⟩, ⟨_, rfl, by decide⟩, ⟨_, rfl, by decide⟩, ⟨_, _, rfl, by decide, rfl, by decide⟩,
    _, _, rfl, by decide, rfl, by decide⟩

theorem witness_DownloadConcatenatesPayloads :
    let ps : List Bytes := [[1, 2, 3, 4], []]
    let s := session [rd d1, rd (wireFrame 0xFFFFFFFF 0x08 []), wr 7]
    isIdle s = true ∧ s.opened = true ∧ 1 ≤ 4 ∧ 4 ≤ 65533 ∧ ps ≠ [] ∧ (∀ p ∈ ps, p.length ≤ 4) ∧
      (∀ p ∈ ps.dropLast, p ≠ []) ∧ s.chan.closed = false ∧ s.chan.pending = [] ∧
      s.chan.script = (bulkFrames s.addr ps).map (fun f => quietEvent f f.length 0) ++ [wr 7] := by decide

theorem witness_FailedDownloadLeavesNothing :
    isIdle (session []) = true ∧ (session []).opened = true ∧ 1 ≤ 1 ∧ 1 ≤ 65533 ∧ 65533 ≤ 65533 := by decide

theorem witness_ChunksCoverTheBuffer :
    1 ≤ 1 ∧ [5] ∈ chunks 4 [1, 2, 3, 4, 5] ∧ [1, 2, 3, 4] ∈ (chunks 4 [1, 2, 3, 4, 5]).dropLast ∧
      (chunks 4 [1, 2, 3, 4, 5])[1]? = some [5] := by decide

theorem witness_UploadSendsTheChunks :
    let b : Bytes := [1, 2, 3, 4, 5]
    let s := session [wr 15, wr 12, wr 0]
    isIdle s = true ∧ s.opened = true ∧ 1 ≤ 4 ∧ 4 ≤ 65533 ∧ b ≠ [] ∧ s.chan.closed = false ∧
      s.chan.script = (bulkFrames s.addr (chunks 4 b)).map (fun f => quietEvent [] 0 f.length) ++ [wr 0] := by decide

theorem witness_UploadStopsAtAShortWrite :
    let b : Bytes := [1, 2, 3, 4, 5, 6, 7, 8, 9]
    let s := session [wr 15, wr 14, wr 0]
    let frame (k : Nat) : Bytes := (bulkFrames s.addr (chunks 4 b)).getD k []
    isIdle s = true ∧ s.opened = true ∧ 1 ≤ 4 ∧ 4 ≤ 65533 ∧ b ≠ [] ∧ s.chan.closed = false ∧
      bulkFrames s.addr (chunks 4 b) = [frame 0] ++ frame 1 :: [frame 2] ∧ 14 < (frame 1).length ∧
      s.chan.script = [frame 0].map (fun g => quietEvent [] 0 g.length) ++ quietEvent [] 0 14 :: [wr 0] := by decide

theorem witness_UploadedFramesDownloadToTheBuffer :
    let b : Bytes := [1, 2, 3, 4, 5]
    let s := session [wr 15, wr 12]
    let frames := bulkFrames s.addr (chunks 4 b)
    let u := session (frames.map fun f => quietEvent f f.length 0)
    isIdle s = true ∧ isIdle u = true ∧ s.opened = true ∧ u.opened = true ∧ u.addr = s.addr ∧ b ≠ [] ∧ 1 ≤ 4 ∧
      4 ≤ 65533 ∧ (∃ t, exec (.upload b 4) s = .next t ∧ t.result = some (.ok .unit) ∧
        t.chan.calls = s.chan.calls ++ frames.map ChanCall.write) ∧
      u.chan.closed = false ∧ u.chan.pending = [] ∧ u.chan.script = frames.map (fun f => quietEvent f f.length 0) :=
  ⟨by decide, by decide, by decide, by decide, by decide, by decide, by decide, by decide,
    ⟨_, rfl, by decide, by decide⟩, by decide, by decide, by decide⟩

theorem witness_BulkRefusals :
    (isIdle State.reset = true ∧ State.reset.opened = false) ∧
    (isIdle (session []) = true ∧ (session []).opened = true) ∧
    (1 ≤ 1 ∧ (0 = 0 ∨ 65533 < 0)) ∧ ((65534 = 0 ∨ 65533 < 65534)) ∧ (1 ≤ 1 ∧ 65533 ≤ 65533) := by decide

theorem witness_RefusedRequestChangesOnlyRefAndErr :
    (∃ t, isRequest (.sendCommand [0x01]) = true ∧ exec (.sendCommand [0x01]) State.reset = .next t ∧
      refusalOf State.reset.busy State.reset.opened State.reset.sq.seq (.sendCommand [0x01]) = some .notOpen) ∧
    (∃ t, isRequest (.checksum 0x01 []) = true ∧ exec (.checksum 0x01 []) State.reset = .next t ∧
      refusalOf State.reset.busy State.reset.opened State.reset.sq.seq (.checksum 0x01 []) = none) :=
  ⟨⟨_, by decide, rfl, by decide⟩, _, by decide, rfl, by decide⟩

theorem witness_BusyAndNotOpenComeFirst :
    (isRequest (.encode 0 0x05 []) = true ∧ ({ State.reset with busy := true } : State).busy = true) ∧
    (isIdle State.reset = true ∧ State.reset.opened = false ∧
      Instr.download 0 0 ∈ [Instr.sendCommand [], .receive 0 0, .transfer [] 0, .setAddress 0, .download 0 0,
        .upload [] 0]) ∧
    Instr.checksum 0x05 [] ∈ [Instr.encode 0 0x05 [], .decode [] 0 0x05, .checksum 0x05 []] := by decide

theorem witness_EveryRequestEnds : isRequest (.download 3 4) = true ∧ isIdle (session []) = true := by decide

theorem witness_ErrorEndsTheOperation :
    ∃ t, isRequest (.sendCommand [0x01]) = true ∧
      refusalOf (session [wr 7]).busy (session [wr 7]).opened (session [wr 7]).sq.seq (.sendCommand [0x01]) = none ∧
      exec (.sendCommand [0x01]) (session [wr 7]) = .next t ∧ t.result = some (.error .writeError) :=
  ⟨_, by decide, by decide, rfl, by decide⟩

theorem witness_ErrorsByOperation :
    ∃ t, isRequest (.download 3 4) = true ∧
      refusalOf (session [rd []]).busy (session [rd []]).opened (session [rd []]).sq.seq (.download 3 4) = none ∧
      exec (.download 3 4) (session [rd []]) = .next t ∧ t.result = some (.error .emptyRead) :=
  ⟨_, by decide, by decide, rfl, by decide⟩

theorem witness_FailedValidationDiscardsThePayload :
    ∃ t, isRequest (.receive 0x07 12) = true ∧ refusalOf false true .idle (.receive 0x07 12) = none ∧
      exec (.receive 0x07 12) { session [rd (v2.set 11 0x0B)] with rxpay := [1] } = .next t ∧
      t.result = some (.error .checksumMismatch) :=
  ⟨_, by decide, by decide, rfl, by decide⟩

/-- The next read gives up to 12 bytes of what waits. -/
def giving : State := session [quietEvent [] 12 0]

theorem witness_FrameIsReadByReceive :
    ∃ t, isIdle giving = true ∧ giving.opened = true ∧ ([0x00] : Bytes).length ≤ 65533 ∧
      ([0x00] : Bytes).length + 11 ≤ 12 ∧ giving.chan.closed = false ∧
      giving.chan.pending = [] ∧ giving.chan.script = quietEvent [] 12 0 :: [] ∧
      exec (frameInstr .ack giving.addr (lenField [0x00])
        ([0x00] ++ be16 (checksumOf PacketType.ack.code [0x00]))) giving = .next t :=
  ⟨_, by decide, by decide, by decide, by decide, by decide, by decide, by decide, rfl⟩

theorem witness_ReadTakesTheOldestBytes :
    ∃ t, isIdle (session [rd v2]) = true ∧ (session [rd v2]).opened = true ∧
      (session [rd v2]).chan.closed = false ∧ (nextEvent (session [rd v2]).chan).closes = false ∧
      exec (.receive PacketType.ack.code 8) (session [rd v2]) = .next t :=
  ⟨_, by decide, by decide, by decide, by decide, rfl⟩

theorem witness_TransferIgnoresStaleInput :
    isIdle (session []) = true ∧ (session []).opened = true ∧ (zeros 65533).length ≤ 65533 := by
  rw [zeros, List.length_replicate]
  decide

/-- A session whose channel the caller has closed, with `n` answers to come. -/
def closedSession (n : Nat) : State :=
  { session (List.replicate n (wr 99)) with
    chan := { (session (List.replicate n (wr 99))).chan with closed := true } }

theorem witness_ClosedChannelFailsEveryExchange :
    (isIdle (closedSession 3) = true ∧ (closedSession 3).opened = true ∧ (closedSession 3).chan.closed = true) ∧
    (∃ t, exec (.receive 0x07 12) (closedSession 1) = .next t ∧ badType 0x07 = false) ∧
    (∃ t, exec (.sendCommand []) (closedSession 1) = .next t ∧ ([] : Bytes).length ≤ 65533) ∧
    (∃ t, exec (.transfer [] 12) (closedSession 3) = .next t) ∧
    (∃ t, exec (.upload [1] 1) (closedSession 1) = .next t ∧ ([1] : Bytes) ≠ [] ∧ 1 ≤ 1 ∧ 1 ≤ 65533) ∧
    (∃ t, exec (.download 1 65533) (closedSession 1) = .next t ∧ 1 ≤ 1 ∧ 1 ≤ 65533 ∧ 65533 ≤ 65533) :=
  ⟨by decide, ⟨_, rfl, by decide⟩, ⟨_, rfl, by decide⟩, ⟨_, rfl⟩, ⟨_, rfl, by decide⟩, _, rfl, by decide⟩

theorem witness_ChannelCallsPerOperation :
    (∃ t, exec (.transfer [0x01] 12) exchanging = .next t) ∧
      ∃ t, exec (.frameAck 0 0 []) State.reset = .next t :=
  ⟨⟨_, rfl⟩, _, rfl⟩

theorem witness_TransmittedFramesCarryTheSessionAddress :
    ∃ t, exec (.sendCommand [0x01]) (session [wr 12]) = .next t ∧
      t.chan.calls = (session [wr 12]).chan.calls ++ [.write v1] ∧ ChanCall.write v1 ∈ [ChanCall.write v1] :=
  ⟨_, rfl, by decide, by decide⟩

theorem witness_LinkHistoryOnlyGrows : ∃ t, step { State.reset with inputs := [.link v1] } = .next t :=
  ⟨_, rfl⟩

theorem witness_SessionRegistersHaveTheirWriters :
    (∃ t, exec (.receive 0x07 12) (session [rd v2]) = .next t ∧
      (∀ c a tmo, Instr.receive 0x07 12 ≠ .openChannel c a tmo) ∧ (∀ a, Instr.receive 0x07 12 ≠ .setAddress a)) ∧
    (∃ t, exec (.setAddress 1) (session []) = .next t ∧ ∀ c a tmo, Instr.setAddress 1 ≠ .openChannel c a tmo) ∧
    (session []).opened = true :=
  ⟨⟨_, rfl, by simp, by simp⟩, ⟨_, rfl, by simp⟩, by decide⟩

theorem witness_OperationsWriteOnlyTheirRegisters :
    (isIdle exchanging = true ∧ ∃ t, exec (.transfer [0x01] 12) exchanging = .next t) ∧
    (∃ t, exec (.decode v2 0 0x07) exchanging = .next t) ∧ (∃ t, exec (.receive 0x07 12) exchanging = .next t) ∧
    (∃ t, exec (.download 1 4) exchanging = .next t) ∧ ∃ t, exec (.upload [1] 4) exchanging = .next t :=
  ⟨⟨by decide, _, rfl⟩, ⟨_, rfl⟩, ⟨_, rfl⟩, ⟨_, rfl⟩, _, rfl⟩

theorem witness_CodecOperationsArePure :
    State.reset.busy = false ∧ (session []).busy = false ∧
      (∃ t v, exec (.checksum 0x01 []) State.reset = .next t ∧ exec (.checksum 0x01 []) (session []) = .next v) ∧
      (∃ t v, exec (.encode 0 0x05 []) State.reset = .next t ∧ exec (.encode 0 0x05 []) (session []) = .next v) ∧
      ∃ t v, exec (.decode v2 0 0x07) State.reset = .next t ∧ exec (.decode v2 0 0x07) (session []) = .next v :=
  ⟨by decide, by decide, ⟨_, _, rfl, rfl⟩, ⟨_, _, rfl, rfl⟩, _, _, rfl, rfl⟩

theorem witness_OperationsIgnoreUnspecifiedRegisters :
    (∃ t v, isRequest (.receive 0x07 12) = true ∧
      sameInterface (session [rd v2]) { session [rd v2] with csum := 0xFFFF, rxpay := [1], bulk := [2] } ∧
      exec (.receive 0x07 12) (session [rd v2]) = .next t ∧
      exec (.receive 0x07 12) { session [rd v2] with csum := 0xFFFF, rxpay := [1], bulk := [2] } = .next v) ∧
    (let s := unopened true
     let u : State := { unopened true with addr := 0x12345678, timeout := 9 }
     ∃ t v, isRequest (.openChannel 0 1 2) = true ∧ s.opened = false ∧ u.opened = false ∧ s.busy = u.busy ∧
      s.sq.seq = u.sq.seq ∧ s.chan = u.chan ∧ exec (.openChannel 0 1 2) s = .next t ∧
      exec (.openChannel 0 1 2) u = .next v ∧ t.opened = true) :=
  ⟨⟨_, _, by decide, ⟨rfl, rfl, rfl, rfl, rfl, rfl⟩, rfl, rfl⟩,
    ⟨_, _, by decide, rfl, rfl, rfl, rfl, rfl, rfl, rfl, by decide⟩⟩

theorem witness_StepKeepsBlockInvariant :
    ∃ t, blockInv { exchanging with inputs := [.request [0x06, 0x01, 0x01, 0x0C]] } = true ∧
      step { exchanging with inputs := [.request [0x06, 0x01, 0x01, 0x0C]] } = .next t ∧
      t.result = some (.ok (.bytes [0x00])) :=
  ⟨_, by decide, rfl, by decide⟩

end Sys2Proof.Tests
end

section
/-! The family 00_scope.md: which instruction a step runs. What `fetch` finds at the head of the inputs is said once
(R5, R83), then `step` on a fetched instruction. -/

namespace Sys2Proof.Proofs

open Sys2Proof Sys2Proof.Machine

theorem linkRest_eq_ite (more : Bytes) (rest : List Input) :
    linkRest more rest = if more = [] then rest else .link more :: rest := by
  simp only [linkRest, List.isEmpty_iff]

/-- The bytes behind the request's operands are no part of the inputs that remain. -/
theorem fetch_request_of_decodeRequest_ok {msg more : Bytes} {i : Instr} (rest : List Input)
    (h : decodeRequest msg = .ok (i, more)) : fetch (.request msg :: rest) = .instr i rest := by
  simp only [fetch, fetchRequest, h]

/-- The bytes behind the frame stay first. -/
theorem fetch_link_of_decodeFrame_ok {bs more : Bytes} {i : Instr} (rest : List Input)
    (h : decodeFrame bs = .ok (i, more)) : fetch (.link bs :: rest) = .instr i (linkRest more rest) := by
  simp only [fetch, fetchLink, h]

theorem step_of_fetch_instr {s : State} {i : Instr} {rest : List Input} (h : fetch s.inputs = .instr i rest) :
    step s = exec i { s with inputs := rest } := by
  simp only [step, h, State.withInputs]

/-- Settles O4: either source fetches the decoded instruction, and a step executes what is fetched. -/
theorem stepRunsDecodedInstruction : Obligations.StepRunsDecodedInstruction := by
  unfold Obligations.StepRunsDecodedInstruction
  constructor
  · intro s i msg more rest hin hdec
    have hfetch : fetch s.inputs = .instr i rest := hin ▸ fetch_request_of_decodeRequest_ok rest hdec
    exact step_of_fetch_instr hfetch
  · intro s i bs more rest hin hdec
    have hfetch : fetch s.inputs = .instr i (linkRest more rest) := hin ▸ fetch_link_of_decodeFrame_ok rest hdec
    rw [← linkRest_eq_ite]
    exact step_of_fetch_instr hfetch

end Sys2Proof.Proofs
end

section
/-! The family 10_state.md: what a step keeps of the block's registers and of the link's histories, and what a read
takes from the link. An instruction is inverted once (`exec_cases`) and so is a step (`step_cases`); a property of the
channel is carried through every instruction once (`exec_keeps_channel`). -/

namespace Sys2Proof.Proofs

open Sys2Proof Sys2Proof.Machine Sys2Proof.Laws

/-! ### The end of an operation -/

@[simp] theorem conclude_addr (r : Option (Except ErrorKind OpValue)) (s : State) :
    (conclude r s).addr = s.addr := by rcases r with _ | _ | _ <;> rfl
@[simp] theorem conclude_timeout (r : Option (Except ErrorKind OpValue)) (s : State) :
    (conclude r s).timeout = s.timeout := by rcases r with _ | _ | _ <;> rfl
@[simp] theorem conclude_opened (r : Option (Except ErrorKind OpValue)) (s : State) :
    (conclude r s).opened = s.opened := by rcases r with _ | _ | _ <;> rfl
@[simp] theorem conclude_raw (r : Option (Except ErrorKind OpValue)) (s : State) :
    (conclude r s).raw = s.raw := by rcases r with _ | _ | _ <;> rfl
@[simp] theorem conclude_chan (r : Option (Except ErrorKind OpValue)) (s : State) :
    (conclude r s).chan = s.chan := by rcases r with _ | _ | _ <;> rfl
@[simp] theorem conclude_error_result (k : ErrorKind) (s : State) :
    (conclude (some (.error k)) s).result = some (.error k) := rfl

theorem rxerrLegal_conclude (r : Option (Except ErrorKind OpValue)) (s : State) :
    rxerrLegal (conclude r s) = rxerrLegal s := by rcases r with _ | _ | _ <;> rfl
theorem pktszLegal_conclude (r : Option (Except ErrorKind OpValue)) (s : State) :
    pktszLegal (conclude r s) = pktszLegal s := by rcases r with _ | _ | _ <;> rfl

/-- R259. -/
theorem isIdle_conclude (r : Except ErrorKind OpValue) (s : State) : isIdle (conclude (some r) s) = true := by
  cases r <;> simp [isIdle, conclude]

/-! ### What an instruction can do, and what a step can do -/

theorem isRequest_or_frame (i : Instr) :
    isRequest i = true ∨ ∃ ty a len body, i = frameInstr ty a len body := by
  cases i with
  | frameCommand a len body => exact .inr ⟨.command, a, len, body, rfl⟩
  | frameData a len body => exact .inr ⟨.data, a, len, body, rfl⟩
  | frameAck a len body => exact .inr ⟨.ack, a, len, body, rfl⟩
  | frameEndData a len body => exact .inr ⟨.endData, a, len, body, rfl⟩
  | _ => exact .inl rfl

theorem exec_accepted {i : Instr} (hi : isRequest i = true) {s : State}
    (ha : refusalOf s.busy s.opened s.sq.seq i = none) :
    exec i s = .next (conclude (bodyOf i (accept s)).2 (bodyOf i (accept s)).1) := by
  rw [exec_request i hi, runOperation_accepted _ _ _ ha]

/-- An instruction is a frame that arrives, a refused request, or an accepted one that comes to its end. -/
theorem exec_cases {i : Instr} {s t : State} (h : exec i s = .next t) :
    (∃ bs, t = arrive bs s) ∨ (∃ r, t = refuse r s) ∨
      (refusalOf s.busy s.opened s.sq.seq i = none ∧
        ∃ r, (bodyOf i (accept s)).2 = some r ∧ t = conclude (some r) (bodyOf i (accept s)).1) := by
  rcases isRequest_or_frame i with hi | ⟨ty, a, len, body, rfl⟩
  · rcases exec_request_cases i hi s t h with ⟨r, _, e⟩ | ⟨ha, ⟨v, hr, e⟩ | ⟨k, hr, _, e⟩⟩
    · exact .inr (.inl ⟨r, e⟩)
    · exact .inr (.inr ⟨ha, _, hr, e⟩)
    · exact .inr (.inr ⟨ha, _, hr, e⟩)
  · rw [exec_frame] at h
    cases h
    exact .inl ⟨_, rfl⟩

theorem step_of_fetch_noise {s : State} {bs : Bytes} {rest : List Input} (h : fetch s.inputs = .noise bs rest) :
    step s = .next (arrive bs (s.withInputs rest)) := by
  simp only [step, h]
theorem step_of_fetch_reservedOp {s : State} {rest : List Input} (h : fetch s.inputs = .reservedOp rest) :
    step s = .next (refuse .badOp (s.withInputs rest)) := by
  simp only [step, h]
theorem step_of_fetch_notARequest {s : State} {why : DecodeError} (h : fetch s.inputs = .notARequest why) :
    step s = .refused (.notARequest why) := by
  simp only [step, h]
theorem step_of_fetch_closing {s : State} {rest : List Input} (h : fetch s.inputs = .closing rest) :
    step s = .next (closeChannel (s.withInputs rest)) := by
  simp only [step, h]
theorem step_of_fetch_resetting {s : State} {rest : List Input} (h : fetch s.inputs = .resetting rest) :
    step s = .next (hostReset (s.withInputs rest)) := by
  simp only [step, h]
theorem step_of_fetch_nothing {s : State} (h : fetch s.inputs = .nothing) : step s = .next s := by
  simp only [step, h]

/-- A step to a next state executes an instruction, or is one of the other five (log entry 1). -/
theorem step_cases {s t : State} (h : step s = .next t) :
    (∃ i rest, exec i (s.withInputs rest) = .next t) ∨ (∃ bs rest, t = arrive bs (s.withInputs rest)) ∨
      (∃ rest, t = refuse .badOp (s.withInputs rest)) ∨ (∃ rest, t = closeChannel (s.withInputs rest)) ∨
      (∃ rest, t = hostReset (s.withInputs rest)) ∨ t = s := by
  cases hf : fetch s.inputs with
  | instr i rest =>
    rw [step_of_fetch_instr hf] at h
    exact .inl ⟨i, rest, h⟩
  | noise bs rest =>
    cases (step_of_fetch_noise hf).symm.trans h
    exact .inr (.inl ⟨bs, rest, rfl⟩)
  | reservedOp rest =>
    cases (step_of_fetch_reservedOp hf).symm.trans h
    exact .inr (.inr (.inl ⟨rest, rfl⟩))
  | notARequest why => cases (step_of_fetch_notARequest hf).symm.trans h
  | closing rest =>
    cases (step_of_fetch_closing hf).symm.trans h
    exact .inr (.inr (.inr (.inl ⟨rest, rfl⟩)))
  | resetting rest =>
    cases (step_of_fetch_resetting hf).symm.trans h
    exact .inr (.inr (.inr (.inr (.inl ⟨rest, rfl⟩))))
  | nothing =>
    cases (step_of_fetch_nothing hf).symm.trans h
    exact .inr (.inr (.inr (.inr (.inr rfl))))

/-! ### Which operands an accepted request has -/

theorem firstRefusal_eq_none_iff (l : List (Bool × RefuseReason)) :
    firstRefusal l = none ↔ ∀ x ∈ l, x.1 = false := by
  induction l with
  | nil => simp [firstRefusal]
  | cons x l ih =>
    obtain ⟨b, r⟩ := x
    cases b <;> simp [firstRefusal, ih]

/-- The operands that end in TXPAY or PKTSZ are within the bounds of R33 and R32. -/
def operandsFit : Instr → Prop
  | .encode _ _ p => p.length ≤ maxPayload
  | .sendCommand p => p.length ≤ maxPayload
  | .transfer p _ => p.length ≤ maxPayload
  | .download _ size => size ≤ maxPayload
  | .upload _ size => size ≤ maxPayload
  | _ => True

theorem operandsFit_of_accepted {busy opened : Bool} {seq : SeqPhase} {i : Instr}
    (ha : refusalOf busy opened seq i = none) : operandsFit i := by
  cases i <;>
    simp_all [refusalOf, firstRefusal_eq_none_iff, operandsFit, badLength_false_iff, badPacketSize_false_iff]

/-! ### The receive machine's error code -/

/-- The errors that a byte can latch (R118 to R123). -/
def latchable : List ErrorKind := [.headerMismatch, .addressMismatch, .typeMismatch, .checksumMismatch]

/-- A byte leaves RXERR alone or latches one of the four errors. -/
theorem rxNext_rxerr (cs : Word16) (b : Byte) (m : RxMachine) :
    (rxNext cs b m).rxerr = m.rxerr ∨ ∃ k ∈ latchable, (rxNext cs b m).rxerr = errCode k := by
  have fails : ∀ k ∈ latchable, ∀ n : RxMachine,
      (rxFail k n).rxerr = m.rxerr ∨ ∃ j ∈ latchable, (rxFail k n).rxerr = errCode j :=
    fun k hk _ => .inr ⟨k, hk, rfl⟩
  cases hph : m.rxph <;> simp only [rxNext, hph]
  case idle | done | fail => exact .inl trivial
  case sc | addr | ck =>
    split
    · exact .inl rfl
    · split
      · exact fails _ (by decide) _
      · exact .inl rfl
  case type =>
    split
    · exact fails _ (by decide) _
    · exact .inl rfl
  case len =>
    split
    · exact .inl rfl
    · split
      · exact fails _ (by decide) _
      · split <;> exact .inl rfl
  case pay => split <;> exact .inl rfl

theorem rxerrLegal_of_eq {s t : State} (e : t.rx.rxerr = s.rx.rxerr) (h : rxerrLegal s = true) :
    rxerrLegal t = true := by
  rwa [rxerrLegal, e]

theorem rxerrLegal_of_latchable {s : State} {k : ErrorKind} (hk : k ∈ latchable) (e : s.rx.rxerr = errCode k) :
    rxerrLegal s = true := by
  have codes : ∀ k ∈ latchable, 4 ≤ (errCode k).toNat ∧ (errCode k).toNat ≤ 7 := by decide
  simp [rxerrLegal, e, codes k hk]

theorem rxerrLegal_rxStep (b : Byte) (s : State) (h : rxerrLegal s = true) : rxerrLegal (rxStep b s) = true := by
  rcases rxNext_rxerr s.csum b s.rx with e | ⟨k, hk, e⟩
  · exact rxerrLegal_of_eq e h
  · exact rxerrLegal_of_latchable hk e

theorem rxerrLegal_rxFeed (bs : Bytes) : ∀ s : State, rxerrLegal s = true → rxerrLegal (rxFeed bs s) = true := by
  induction bs with
  | nil => intro s h; exact h
  | cons b bs ih => intro s h; exact ih _ (rxerrLegal_rxStep b s h)

/-- Whatever RXERR held before, R117 clears it. -/
theorem rxerrLegal_decodeBuffer (raw : Bytes) (ea : Word32) (et : Byte) (s : State) :
    rxerrLegal (decodeBuffer raw ea et s) = true :=
  rxerrLegal_rxFeed raw (rxStart ea et { s with raw := raw }) rfl

/-! ### The sequencer's packet size -/

theorem sendFrame_sq (t : Byte) (p : Bytes) (s : State) : (sendFrame t p s).sq = s.sq :=
  (encodeFrame_frame s.addr t p s).2.1

theorem sendFrame_rx (t : Byte) (p : Bytes) (s : State) : (sendFrame t p s).rx = s.rx :=
  (encodeFrame_frame s.addr t p s).1

theorem pktszLegal_of_eq {s t : State} (e : t.sq.pktsz = s.sq.pktsz) (h : pktszLegal s = true) :
    pktszLegal t = true := by
  rwa [pktszLegal, e]

/-- The start of a bulk transfer latches a legal size (R185, R187). -/
theorem pktszLegal_of_latched {s : State} {size : Nat} (hs : size ≤ maxPayload)
    (e : s.sq.pktsz = BitVec.ofNat 16 size) : pktszLegal s = true := by
  simp only [pktszLegal, e, BitVec.toNat_ofNat, decide_eq_true_eq]
  exact (Nat.mod_le _ _).trans hs

/-- An upload step sends one frame, and leaves the receive machine and PKTSZ alone (R188). -/
theorem ulStep_frame (s : State) :
    (ulStep s).1.rx = s.rx ∧ (ulStep s).1.sq.pktsz = s.sq.pktsz ∧
      (ulStep s).1.chan = (sendFrame (bulkType s.sq) (ulChunk s) s).chan := by
  unfold ulStep
  dsimp only
  split
  · simp [seqIdle, sendFrame_sq, sendFrame_rx]
  · split <;> simp [seqIdle, sendFrame_sq, sendFrame_rx]

theorem pktszLegal_ulStep (s : State) (h : pktszLegal s = true) : pktszLegal (ulStep s).1 = true := by
  obtain ⟨_, hsize, _⟩ := ulStep_frame s
  exact pktszLegal_of_eq hsize h

/-- R188: a chunk fits in a frame. -/
theorem ulChunk_length_le {s : State} (h : pktszLegal s = true) : (ulChunk s).length ≤ maxPayload := by
  simp only [pktszLegal, decide_eq_true_eq] at h
  simp only [ulChunk, memRead_length, chunkLen]
  omega

/-! ### The registers' bounds through every operation -/

/-- The part of the block invariant that holds inside an operation too. -/
def storesLegal (s : State) : Prop := rxerrLegal s = true ∧ Memory.wf s = true ∧ pktszLegal s = true

theorem blockInv_iff (s : State) :
    blockInv s = true ↔ isIdle s = true ∧ codesAgree s = true ∧ storesLegal s := by
  simp only [blockInv, storesLegal, Bool.and_eq_true, and_assoc]

theorem storesLegal_encodeFrame (a : Word32) (t : Byte) (p : Bytes) (s : State) (hp : p.length ≤ maxPayload)
    (h : storesLegal s) : storesLegal (encodeFrame a t p s) := by
  obtain ⟨hrx, hsq, _⟩ := encodeFrame_frame a t p s
  obtain ⟨hr, hm, hk⟩ := h
  exact ⟨rxerrLegal_of_eq (by rw [hrx]) hr, Memory.wf_encodeFrame a t p s hp hm, pktszLegal_of_eq (by rw [hsq]) hk⟩

theorem storesLegal_sendFrame (t : Byte) (p : Bytes) (s : State) (hp : p.length ≤ maxPayload)
    (h : storesLegal s) : storesLegal (sendFrame t p s) :=
  storesLegal_encodeFrame s.addr t p s hp h

theorem storesLegal_decodeBuffer (raw : Bytes) (ea : Word32) (et : Byte) (s : State) (h : storesLegal s) :
    storesLegal (decodeBuffer raw ea et s) := by
  obtain ⟨_, hm, hk⟩ := h
  exact ⟨rxerrLegal_decodeBuffer raw ea et s, Memory.wf_decodeBuffer raw ea et s hm,
    pktszLegal_of_eq (by rw [decodeBuffer_eq]) hk⟩

theorem storesLegal_receiveFrame (et : Byte) (m : Nat) (s : State) (h : storesLegal s) :
    storesLegal (receiveFrame et m s) := by
  unfold receiveFrame
  split
  · exact h
  · exact storesLegal_decodeBuffer _ _ _ _ h

theorem storesLegal_transferExchange (p : Bytes) (e : Nat) (s : State) (hp : p.length ≤ maxPayload)
    (h : storesLegal s) : storesLegal (transferExchange p e s).1 := by
  have hsend := storesLegal_sendFrame PacketType.command.code p s hp h
  unfold transferExchange
  split
  · exact hsend
  · exact storesLegal_receiveFrame _ _ _ hsend

theorem storesLegal_dlStep (s : State) (h : storesLegal s) : storesLegal (dlStep s).1 := by
  have hr := storesLegal_receiveFrame (bulkType s.sq) (s.sq.pktsz.toNat + frameOverhead) s h
  unfold dlStep
  dsimp only
  split
  · exact hr
  · split
    · exact hr
    · split <;> exact hr

theorem storesLegal_ulStep (s : State) (h : storesLegal s) : storesLegal (ulStep s).1 := by
  obtain ⟨hr, hm, hk⟩ := h
  obtain ⟨hrx, _⟩ := ulStep_frame s
  exact ⟨rxerrLegal_of_eq (by rw [hrx]) hr, Memory.wf_ulStep s hk hm, pktszLegal_ulStep s hk⟩

theorem storesLegal_body (i : Instr) (hi : operandsFit i) (s : State) (h : storesLegal s) :
    storesLegal (bodyOf i s).1 := by
  obtain ⟨hr, hm, _⟩ := id h
  cases i with
  | encode a t p => exact storesLegal_encodeFrame a t p s hi h
  | decode raw ea et => exact storesLegal_decodeBuffer raw ea et s h
  | checksum t p =>
    simp only [bodyOf, checksumBody, accumulate_eq]
    exact h
  | openChannel c a tmo =>
    simp only [bodyOf, openBody]
    split <;> exact h
  | sendCommand p => exact storesLegal_sendFrame _ p s hi h
  | receive et m => exact storesLegal_receiveFrame et m s h
  | transfer p e => exact storesLegal_transferExchange p e (transferFlush s) hi h
  | download n size =>
    exact dlRun_keeps storesLegal_dlStep n (dlStart n size s) ⟨hr, hm, pktszLegal_of_latched hi rfl⟩
  | upload b size =>
    exact ulRun_keeps storesLegal_ulStep _ (ulStart b size s) ⟨hr, hm, pktszLegal_of_latched hi rfl⟩
  | _ => exact h

theorem storesLegal_conclude (r : Option (Except ErrorKind OpValue)) (s : State) (h : storesLegal s) :
    storesLegal (conclude r s) := by
  obtain ⟨hr, hm, hk⟩ := h
  exact ⟨by rwa [rxerrLegal_conclude], Memory.wf_conclude r s hm, by rwa [pktszLegal_conclude]⟩

/-! ### The codes of the last result -/

theorem statusError_not_mem_canRaise (i : Instr) : ErrorKind.statusError ∉ canRaise i := by
  cases i <;> simp [canRaise]

/-- R259: ERR and REF are the codes of the result that the operation ends with. -/
theorem codesAgree_conclude (i : Instr) (s : State) (r : Except ErrorKind OpValue)
    (hr : (bodyOf i (accept s)).2 = some r) : codesAgree (conclude (some r) (bodyOf i (accept s)).1) = true := by
  obtain ⟨_, href, _⟩ := body_keepsResult i (accept s)
  rw [accept_ref] at href
  cases r with
  | ok v => simp [conclude, codesAgree, href]
  | error k =>
    have hk : k ≠ .statusError := fun e => statusError_not_mem_canRaise i (e ▸ body_errors i _ k hr)
    simp [conclude, codesAgree, href, hk]

theorem codesAgree_refuse (r : RefuseReason) (s : State) : codesAgree (refuse r s) = true := by
  simp [codesAgree]

/-! ### The block invariant -/

theorem blockInv_refuse (r : RefuseReason) (s : State) (h : blockInv s = true) : blockInv (refuse r s) = true := by
  rw [blockInv_iff] at h ⊢
  obtain ⟨hidle, _, hstores⟩ := h
  exact ⟨hidle, codesAgree_refuse r s, hstores⟩

theorem blockInv_exec {i : Instr} {s t : State} (h : blockInv s = true) (he : exec i s = .next t) :
    blockInv t = true := by
  rcases exec_cases he with ⟨bs, rfl⟩ | ⟨r, rfl⟩ | ⟨ha, r, hr, rfl⟩
  · exact h
  · exact blockInv_refuse r s h
  · obtain ⟨_, _, hstores⟩ := (blockInv_iff s).1 h
    have hbody := storesLegal_body i (operandsFit_of_accepted ha) (accept s) hstores
    exact (blockInv_iff _).2
      ⟨isIdle_conclude r _, codesAgree_conclude i s r hr, storesLegal_conclude _ _ hbody⟩

/-- Settles O53: an operation ends idle and with its own codes, and keeps the bounds; every other step keeps all of the
invariant or is a reset. -/
theorem stepKeepsBlockInvariant : Obligations.StepKeepsBlockInvariant := by
  unfold Obligations.StepKeepsBlockInvariant
  intro s t h hstep
  rcases step_cases hstep with ⟨i, rest, he⟩ | ⟨bs, rest, rfl⟩ | ⟨rest, rfl⟩ | ⟨rest, rfl⟩ | ⟨rest, rfl⟩ | rfl
  · exact blockInv_exec (s := s.withInputs rest) h he
  · exact h
  · exact blockInv_refuse _ (s.withInputs rest) h
  · exact h
  · rfl
  · exact h

/-! ### A property of the channel through every instruction -/

/-- What R56 and R81 let the block send: a whole frame under `a`, of type Command, Data or EndData. -/
def IsSessionFrame (a : Word32) (f : Bytes) : Prop :=
  ∃ (ty : PacketType) (p : Bytes), ty ≠ .ack ∧ p.length ≤ 65533 ∧ f = wireFrame a ty.code p

/-- `P` holds of the channel after everything that a block with these ADDR and OPENED, or its link, does to it. -/
structure KeptByLink (a : Word32) (opened : Bool) (P : Channel → Prop) : Prop where
  arrive : ∀ bs c, P c → P { c with pending := c.pending ++ bs }
  write : ∀ f c, IsSessionFrame a f → P c → P (chanWrite f c)
  read : ∀ max timeout c, P c → P (chanRead max timeout c)
  flushInput : ∀ c, P c → P (chanFlushInput c)
  flushOutput : ∀ c, P c → P (chanFlushOutput c)
  opens : opened = false → ∀ id c, P c → P (chanOpen id c)

theorem bulkType_eq_code (q : Sequencer) : ∃ ty : PacketType, ty ≠ .ack ∧ bulkType q = ty.code := by
  unfold bulkType
  split
  · exact ⟨.endData, by decide, rfl⟩
  · exact ⟨.data, by decide, rfl⟩

theorem dlStep_chan (s : State) :
    (dlStep s).1.chan = chanRead (s.sq.pktsz.toNat + frameOverhead) s.timeout s.chan := by
  unfold dlStep
  dsimp only
  split
  · simp [dlAbort, seqIdle]
  · split
    · simp [seqIdle]
    · split <;> simp [dlAbort, seqIdle]

theorem accepted_open_of_opened {busy opened : Bool} {seq : SeqPhase} {c : Nat} {a : Word32} {tmo : Nat}
    (ha : refusalOf busy opened seq (.openChannel c a tmo) = none) : opened = false := by
  simp only [refusalOf, firstRefusal_eq_none_iff] at ha
  exact ha (opened, .alreadyOpen) (by simp)

section KeptByLink

variable {a : Word32} {opened : Bool} {P : Channel → Prop} (hP : KeptByLink a opened P)
include hP

theorem KeptByLink.sendFrame {ty : PacketType} {p : Bytes} {s : State} (hty : ty ≠ .ack) (hp : p.length ≤ maxPayload)
    (ha : s.addr = a) (h : P s.chan) : P (sendFrame ty.code p s).chan := by
  rw [sendFrame_eq _ _ _ hp, ha]
  exact hP.write _ _ ⟨ty, p, hty, hp, rfl⟩ h

theorem KeptByLink.receiveFrame (et : Byte) (m : Nat) {s : State} (h : P s.chan) : P (receiveFrame et m s).chan := by
  rw [receiveFrame_chan]
  exact hP.read _ _ _ h

theorem KeptByLink.transferExchange {p : Bytes} (e : Nat) {s : State} (hp : p.length ≤ maxPayload) (ha : s.addr = a)
    (h : P s.chan) : P (transferExchange p e s).1.chan := by
  have hsend := hP.sendFrame (ty := .command) (by decide) hp ha h
  unfold Machine.transferExchange
  split
  · exact hsend
  · exact hP.receiveFrame _ _ hsend

theorem KeptByLink.ulRun (fuel : Nat) {s : State} (hs : pktszLegal s = true) (ha : s.addr = a) (h : P s.chan) :
    P (ulRun fuel s).1.chan := by
  refine (ulRun_keeps (P := fun u => pktszLegal u = true ∧ u.addr = a ∧ P u.chan) ?_ fuel s ⟨hs, ha, h⟩).2.2
  rintro u ⟨hu, hua, hc⟩
  obtain ⟨ty, hty, hcode⟩ := bulkType_eq_code u.sq
  obtain ⟨_, haddr, _⟩ := ulStep_keeps u
  obtain ⟨_, _, hchan⟩ := ulStep_frame u
  refine ⟨pktszLegal_ulStep u hu, haddr.trans hua, ?_⟩
  rw [hchan, hcode]
  exact hP.sendFrame hty (ulChunk_length_le hu) hua hc

theorem KeptByLink.dlRun (fuel : Nat) {s : State} (h : P s.chan) : P (dlRun fuel s).1.chan := by
  refine dlRun_keeps (P := fun u => P u.chan) (fun u hu => ?_) fuel s h
  rw [dlStep_chan]
  exact hP.read _ _ _ hu

theorem KeptByLink.body {i : Instr} (hi : operandsFit i) (ho : ∀ c b tmo, i = .openChannel c b tmo → opened = false)
    {s : State} (ha : s.addr = a) (h : P s.chan) : P (bodyOf i s).1.chan := by
  cases i with
  | encode b t p =>
    obtain ⟨_, _, _, _, _, hc⟩ := encodeFrame_frame b t p s
    exact hc.symm ▸ h
  | decode raw ea et =>
    simp only [bodyOf, decodeBody, decodeBuffer_eq]
    exact h
  | checksum t p =>
    simp only [bodyOf, checksumBody, accumulate_eq]
    exact h
  | openChannel c b tmo =>
    have hopen := hP.opens (ho c b tmo rfl) c _ h
    simp only [bodyOf, openBody]
    split <;> exact hopen
  | sendCommand p => exact hP.sendFrame (ty := .command) (by decide) hi ha h
  | receive et m => exact hP.receiveFrame et m h
  | transfer p e =>
    exact hP.transferExchange (s := transferFlush s) e hi ha (hP.flushOutput _ (hP.flushInput _ h))
  | download n size => exact hP.dlRun n (s := dlStart n size s) h
  | upload b size => exact hP.ulRun _ (s := ulStart b size s) (pktszLegal_of_latched hi rfl) ha h
  | _ => exact h

end KeptByLink

/-- What every call and every arrival keeps of the channel, an instruction keeps. -/
theorem exec_keeps_channel {i : Instr} {s t : State} {P : Channel → Prop} (hP : KeptByLink s.addr s.opened P)
    (he : exec i s = .next t) (h : P s.chan) : P t.chan := by
  rcases exec_cases he with ⟨bs, rfl⟩ | ⟨r, rfl⟩ | ⟨ha, r, _, rfl⟩
  · exact hP.arrive bs _ h
  · exact h
  · rw [conclude_chan]
    refine hP.body (s := accept s) (operandsFit_of_accepted ha) ?_ rfl h
    rintro c b tmo rfl
    exact accepted_open_of_opened ha

/-! ### What is written -/

/-- `d` has made the calls of `c` and then others, which write frames under `a` alone. -/
def CallsExtend (a : Word32) (c d : Channel) : Prop :=
  ∃ new, d.calls = c.calls ++ new ∧ ∀ f, ChanCall.write f ∈ new → IsSessionFrame a f

theorem CallsExtend.refl (a : Word32) (c : Channel) : CallsExtend a c c := ⟨[], by simp, by simp⟩

theorem CallsExtend.call {a : Word32} {c d e : Channel} {x : ChanCall} (h : CallsExtend a c d)
    (he : e.calls = d.calls ++ [x]) (hx : ∀ f, x = .write f → IsSessionFrame a f) : CallsExtend a c e := by
  obtain ⟨new, hd, hnew⟩ := h
  refine ⟨new ++ [x], by rw [he, hd, List.append_assoc], fun f hf => ?_⟩
  rcases List.mem_append.1 hf with hf | hf
  · exact hnew f hf
  · exact hx f (List.mem_singleton.1 hf).symm

theorem callsExtend_keptByLink (a : Word32) (opened : Bool) (c : Channel) :
    KeptByLink a opened (CallsExtend a c) where
  arrive _ _ h := h
  write f d hf h := h.call (chanWrite_calls f d) fun g e => by cases e; exact hf
  read m tmo d h := h.call (chanRead_calls m tmo d) fun _ e => by cases e
  flushInput d h := h.call (chanFlushInput_calls d) fun _ e => by cases e
  flushOutput d h := h.call (chanFlushOutput_calls d) fun _ e => by cases e
  opens _ id d h := h.call (chanOpen_calls id d) fun _ e => by cases e

/-- Settles O47: each call that an instruction adds writes a frame under ADDR, or is no write. -/
theorem transmittedFramesCarryTheSessionAddress : Obligations.TransmittedFramesCarryTheSessionAddress := by
  unfold Obligations.TransmittedFramesCarryTheSessionAddress
  intro s t i new f he hcalls hf
  obtain ⟨new', hcalls', hframes⟩ := exec_keeps_channel (callsExtend_keptByLink s.addr s.opened s.chan) he (.refl _ _)
  have hnew : new = new' := List.append_cancel_left (hcalls.symm.trans hcalls')
  exact hframes f (hnew ▸ hf)

/-! ### What has been sent, read and called -/

/-- The three histories of `c` are first parts of those of `d` (R35, R57). -/
def HistoryGrows (c d : Channel) : Prop := c.txlog <+: d.txlog ∧ c.rxlog <+: d.rxlog ∧ c.calls <+: d.calls

theorem HistoryGrows.refl (c : Channel) : HistoryGrows c c :=
  ⟨List.prefix_rfl, List.prefix_rfl, List.prefix_rfl⟩

theorem HistoryGrows.append {c d e : Channel} {sent got : Bytes} {calls : List ChanCall} (h : HistoryGrows c d)
    (htx : e.txlog = d.txlog ++ sent) (hrx : e.rxlog = d.rxlog ++ got) (hcalls : e.calls = d.calls ++ calls) :
    HistoryGrows c e := by
  obtain ⟨h1, h2, h3⟩ := h
  exact ⟨htx ▸ h1.trans (List.prefix_append _ _), hrx ▸ h2.trans (List.prefix_append _ _),
    hcalls ▸ h3.trans (List.prefix_append _ _)⟩

theorem historyGrows_keptByLink (a : Word32) (opened : Bool) (c : Channel) :
    KeptByLink a opened (HistoryGrows c) where
  arrive _ _ h := h
  write f d _ h := h.append (got := []) (chanWrite_txlog f d) (by simp) (chanWrite_calls f d)
  read m tmo d h := h.append (sent := []) (by simp) (chanRead_rxlog m tmo d) (chanRead_calls m tmo d)
  flushInput d h := h.append (sent := []) (got := []) (by simp) (by simp) (chanFlushInput_calls d)
  flushOutput d h := h.append (sent := []) (got := []) (by simp) (by simp) (chanFlushOutput_calls d)
  opens _ id d h := h.append (sent := []) (got := []) (by simp) (by simp) (chanOpen_calls id d)

/-- Settles O48: an instruction's calls only append to the histories, and every other step leaves them alone. -/
theorem linkHistoryOnlyGrows : Obligations.LinkHistoryOnlyGrows := by
  unfold Obligations.LinkHistoryOnlyGrows
  intro s t hstep
  show HistoryGrows s.chan t.chan
  have hrefl := HistoryGrows.refl s.chan
  rcases step_cases hstep with ⟨i, rest, he⟩ | ⟨bs, rest, rfl⟩ | ⟨rest, rfl⟩ | ⟨rest, rfl⟩ | ⟨rest, rfl⟩ | rfl
  · exact exec_keeps_channel (historyGrows_keptByLink _ _ s.chan) he hrefl
  all_goals exact hrefl

/-! ### The session registers -/

theorem exec_keeps_session {i : Instr} {s t : State} (he : exec i s = .next t)
    (ho : ∀ c a tmo, i ≠ .openChannel c a tmo) (hs : ∀ a, i ≠ .setAddress a) :
    t.addr = s.addr ∧ t.timeout = s.timeout ∧ t.opened = s.opened := by
  rcases exec_cases he with ⟨bs, rfl⟩ | ⟨r, rfl⟩ | ⟨_, r, _, rfl⟩
  · simp
  · simp
  · obtain ⟨_, hbody⟩ := body_keepsSession i (accept s) ho hs
    simpa using hbody

/-- SET_ADDRESS writes ADDR alone of the three (R158). -/
theorem exec_setAddress_keeps {a : Word32} {s t : State} (he : exec (.setAddress a) s = .next t) :
    t.timeout = s.timeout ∧ t.opened = s.opened := by
  rcases exec_cases he with ⟨bs, rfl⟩ | ⟨r, rfl⟩ | ⟨_, r, _, rfl⟩ <;> simp [bodyOf, setAddressBody]

/-- With a session open an OPEN is refused (R154), so it writes no session register. -/
theorem exec_openChannel_opened {c : Nat} {a : Word32} {tmo : Nat} {s t : State}
    (he : exec (.openChannel c a tmo) s = .next t) (hopen : s.opened = true) : t.opened = true := by
  rcases exec_cases he with ⟨bs, rfl⟩ | ⟨r, rfl⟩ | ⟨ha, r, _, rfl⟩
  · exact hopen
  · exact hopen
  · exact absurd (accepted_open_of_opened ha) (by simp [hopen])

theorem exec_keeps_opened {i : Instr} {s t : State} (he : exec i s = .next t) (hopen : s.opened = true) :
    t.opened = true := by
  cases i with
  | openChannel c a tmo => exact exec_openChannel_opened he hopen
  | setAddress a =>
    obtain ⟨_, h⟩ := exec_setAddress_keeps he
    exact h.trans hopen
  | _ =>
    obtain ⟨_, _, h⟩ := exec_keeps_session he (by simp) (by simp)
    exact h.trans hopen

/-- Settles O49: OPEN and SET_ADDRESS are the only bodies that write a session register. -/
theorem sessionRegistersHaveTheirWriters : Obligations.SessionRegistersHaveTheirWriters := by
  unfold Obligations.SessionRegistersHaveTheirWriters
  intro s t i he
  refine ⟨fun ho hs => (exec_keeps_session he ho hs).1, fun ho => ?_, exec_keeps_opened he⟩
  by_cases hs : ∃ a, i = .setAddress a
  · obtain ⟨a, rfl⟩ := hs
    exact exec_setAddress_keeps he
  · exact (exec_keeps_session he ho (not_exists.1 hs)).2

/-! ### A channel closed from outside -/

/-- With a session open no OPEN is accepted, so nothing reopens the channel. -/
theorem closed_keptByLink (a : Word32) {opened : Bool} (hopen : opened = true) :
    KeptByLink a opened (fun c => c.closed = true) where
  arrive _ _ h := h
  write f c _ h := by rw [chanWrite_closed, h, Bool.true_or]
  read m tmo c h := by rw [chanRead_closed, h, Bool.true_or]
  flushInput c h := (meetEvent_closed c).trans (by rw [h, Bool.true_or])
  flushOutput c h := (meetEvent_closed c).trans (by rw [h, Bool.true_or])
  opens h := absurd (hopen.symm.trans h) (by decide)

theorem sendOutcome_closed (t : Byte) {p : Bytes} {s : State} (hp : p.length ≤ maxPayload)
    (hc : s.chan.closed = true) : sendOutcome t p s = .error .writeError := by
  have hframe : wireFrame s.addr t p ≠ [] := by simp [wireFrame, frameHeader]
  have hshort := writeCount_lt_of_closed _ s.chan hc hframe
  rw [wireFrame_length] at hshort
  rw [sendOutcome_eq t p s hp, if_pos hshort]

theorem receiveOutcome_closed (et : Byte) (m : Nat) {s : State} (hc : s.chan.closed = true) :
    receiveOutcome et m s = .error .connectionError ∨ receiveOutcome et m s = .error .emptyRead := by
  rw [receiveOutcome_eq]
  rcases readAnswer_closed m s.chan hc with e | e <;> rw [e]
  · exact .inl rfl
  · exact .inr rfl

/-- An upload ends at its first frame. -/
theorem ulRun_closed {fuel : Nat} {s : State} (hf : 0 < fuel) (hs : pktszLegal s = true)
    (hc : s.chan.closed = true) : (ulRun fuel s).2 = some (.error .writeError) := by
  obtain ⟨n, rfl⟩ := Nat.exists_eq_add_of_lt hf
  simp [ulRun, ulStep, sendOutcome_closed _ (ulChunk_length_le hs) hc]

/-- A download ends at its first frame. -/
theorem dlRun_closed {fuel : Nat} {s : State} (hf : 0 < fuel) (hc : s.chan.closed = true) :
    (dlRun fuel s).2 = some (.error .connectionError) ∨ (dlRun fuel s).2 = some (.error .emptyRead) := by
  obtain ⟨n, rfl⟩ := Nat.exists_eq_add_of_lt hf
  rcases receiveOutcome_closed (bulkType s.sq) (s.sq.pktsz.toNat + frameOverhead) hc with e | e <;>
    simp [dlRun, dlStep, e]

theorem transferExchange_closed {p : Bytes} (e : Nat) {s : State} (hp : p.length ≤ maxPayload)
    (hc : s.chan.closed = true) : (transferExchange p e s).2 = some (.error .writeError) := by
  simp [transferExchange, sendOutcome_closed _ hp hc]

/-! ### Accepted requests of an open session -/

section Accepted

variable {s : State} (hidle : isIdle s = true) (hopen : s.opened = true)
include hidle hopen

theorem accepted_receive {et : Byte} (m : Nat) (ht : badType et = false) :
    refusalOf s.busy s.opened s.sq.seq (.receive et m) = none := by
  obtain ⟨hb, _⟩ := (isIdle_iff s).1 hidle
  simp [refusalOf, firstRefusal_eq_none_iff, hb, hopen, ht]

theorem accepted_sendCommand {p : Bytes} (hp : p.length ≤ maxPayload) :
    refusalOf s.busy s.opened s.sq.seq (.sendCommand p) = none := by
  obtain ⟨hb, _⟩ := (isIdle_iff s).1 hidle
  simp [refusalOf, firstRefusal_eq_none_iff, hb, hopen, (badLength_false_iff p).2 hp]

theorem accepted_transfer {p : Bytes} (m : Nat) (hp : p.length ≤ maxPayload) :
    refusalOf s.busy s.opened s.sq.seq (.transfer p m) = none :=
  accepted_sendCommand hidle hopen hp

theorem accepted_upload {b : Bytes} {size : Nat} (hb : b ≠ []) (h1 : 1 ≤ size) (h2 : size ≤ maxPayload) :
    refusalOf s.busy s.opened s.sq.seq (.upload b size) = none := by
  obtain ⟨hbusy, _, _, hseq⟩ := (isIdle_iff s).1 hidle
  simp [refusalOf, firstRefusal_eq_none_iff, hbusy, hopen, hseq, (badPacketSize_false_iff size).2 ⟨h1, h2⟩,
    emptyBuffer, hb]

theorem accepted_download {n size : Nat} (hn : 1 ≤ n) (h1 : 1 ≤ size) (h2 : size ≤ maxPayload) :
    refusalOf s.busy s.opened s.sq.seq (.download n size) = none := by
  obtain ⟨hbusy, _, _, hseq⟩ := (isIdle_iff s).1 hidle
  have hcount : badCount n = false := by simp [badCount]; omega
  simp [refusalOf, firstRefusal_eq_none_iff, hbusy, hopen, hseq, (badPacketSize_false_iff size).2 ⟨h1, h2⟩, hcount]

end Accepted

theorem exec_accepted_error {i : Instr} (hi : isRequest i = true) {s t : State} {k : ErrorKind}
    (he : exec i s = .next t) (ha : refusalOf s.busy s.opened s.sq.seq i = none)
    (hk : (bodyOf i (accept s)).2 = some (.error k)) : t.result = some (.error k) := by
  rw [exec_accepted hi ha, hk] at he
  cases he
  rfl

/-- Settles O45: every body that exchanges fails at its first write or read on a closed channel. -/
theorem closedChannelFailsEveryExchange : Obligations.ClosedChannelFailsEveryExchange := by
  unfold Obligations.ClosedChannelFailsEveryExchange
  intro s t i hidle hopen hclosed he
  refine ⟨exec_keeps_opened he hopen, exec_keeps_channel (closed_keptByLink s.addr hopen) he hclosed,
    ?_, ?_, ?_, ?_, ?_⟩
  · rintro et m rfl ht
    have ha := accepted_receive hidle hopen m ht
    exact (receiveOutcome_closed et m (s := accept s) hclosed).imp
      (fun e => exec_accepted_error rfl he ha (by simp [bodyOf, receiveBody, e, bytesResult]))
      (fun e => exec_accepted_error rfl he ha (by simp [bodyOf, receiveBody, e, bytesResult]))
  · rintro p rfl hp
    refine exec_accepted_error rfl he (accepted_sendCommand hidle hopen hp) ?_
    simp [bodyOf, sendCommandBody, sendOutcome_closed _ hp (s := accept s) hclosed, unitResult]
  · rintro p m rfl hp
    have hflushed : (transferFlush (accept s)).chan.closed = true :=
      have kept := closed_keptByLink s.addr hopen
      kept.flushOutput _ (kept.flushInput _ hclosed)
    exact exec_accepted_error rfl he (accepted_transfer hidle hopen m hp) (transferExchange_closed m hp hflushed)
  · rintro b size rfl hb h1 h2
    exact exec_accepted_error rfl he (accepted_upload hidle hopen hb h1 h2)
      (ulRun_closed (s := ulStart b size (accept s)) (ceilDiv_pos _ _ (List.length_pos_iff.2 hb) h1)
        (pktszLegal_of_latched h2 rfl) hclosed)
  · rintro n size rfl hn h1 h2
    have ha := accepted_download hidle hopen hn h1 h2
    exact (dlRun_closed (s := dlStart n size (accept s)) hn hclosed).imp
      (exec_accepted_error rfl he ha) (exec_accepted_error rfl he ha)

/-! ### What a read takes -/

theorem exec_accepted_receive {et : PacketType} {m : Nat} {s : State} (hidle : isIdle s = true)
    (hopen : s.opened = true) :
    exec (.receive et.code m) s = .next (conclude (bytesResult (receiveOutcome et.code m (accept s)))
      (receiveFrame et.code m (accept s))) :=
  exec_accepted rfl (accepted_receive hidle hopen m (badType_code et))

theorem readAnswer_open {m : Nat} {c : Channel} (hc : c.closed = false) (he : (nextEvent c).closes = false) :
    readAnswer m c = some ((c.pending ++ (nextEvent c).arrive).take (min m (nextEvent c).gives)) := by
  simp [readAnswer, hc, he]

theorem chanRead_pending_open {m tmo : Nat} {c : Channel} (hc : c.closed = false)
    (he : (nextEvent c).closes = false) :
    (chanRead m tmo c).pending = (c.pending ++ (nextEvent c).arrive).drop (min m (nextEvent c).gives) := by
  simp [chanRead, hc, he]

/-- RAW holds the bytes of the read (R156). -/
theorem receiveFrame_raw {et : Byte} {m : Nat} {s : State} {bs : Bytes} (h : readAnswer m s.chan = some bs) :
    (receiveFrame et m s).raw = bs := by
  simp only [receiveFrame, h, decodeBuffer_eq]

/-- Settles O43: an accepted RECEIVE makes one read, whose answer is the front of what is pending. -/
theorem readTakesTheOldestBytes : Obligations.ReadTakesTheOldestBytes := by
  unfold Obligations.ReadTakesTheOldestBytes
  intro s t et m hidle hopen hclosed hcloses he
  have hread := readAnswer_open (m := m) hclosed hcloses
  rw [exec_accepted_receive hidle hopen] at he
  cases he
  simp only [conclude_raw, conclude_chan, receiveFrame_chan, accept_chan, accept_timeout, chanRead_rxlog,
    chanRead_txlog, chanRead_calls, hread, Option.getD_some, chanRead_pending_open hclosed hcloses,
    receiveFrame_raw (s := accept s) hread, and_self]

/-! ### Frames on the link -/

/-- Settles O41: a frame row is an arrival, with the bytes of R70. -/
theorem framesWaitInTheChannel : Obligations.FramesWaitInTheChannel := by
  unfold Obligations.FramesWaitInTheChannel
  intro s a len body
  exact ⟨exec_frame .command a len body s, exec_frame .data a len body s, exec_frame .ack a len body s,
    exec_frame .endData a len body s⟩

theorem code_inj {ty et : PacketType} : ty.code = et.code ↔ ty = et := by
  refine ⟨fun h => ?_, fun h => h ▸ rfl⟩
  have := ofCode?_code ty
  rw [h, ofCode?_code] at this
  exact (Option.some.inj this).symm

/-- R101 on a frame of R100 under the right address, of any type. -/
theorem validate_wireFrame_code (a : Word32) (ty et : PacketType) {p : Bytes} (hp : p.length ≤ maxPayload) :
    validate (wireFrame a ty.code p) a et.code = if et = ty then .ok p else .error .typeMismatch := by
  have h := validate_frame a a ty.code et.code p (checksumOf ty.code p) [] hp
  rw [List.append_nil, ← List.append_assoc] at h
  rw [wireFrame, h]
  by_cases heq : et = ty
  · simp [heq]
  · simp [heq, code_inj, Ne.symm heq]

theorem frameBytes_eq_wireFrame (a : Word32) (ty : PacketType) (p : Bytes) :
    frameBytes a ty (lenField p) (p ++ be16 (checksumOf ty.code p)) = wireFrame a ty.code p :=
  (List.append_assoc _ _ _).symm

/-- Settles O42: the frame is the whole pending input, the read takes all of it, and R101 decides by the type. -/
theorem frameIsReadByReceive : Obligations.FrameIsReadByReceive := by
  unfold Obligations.FrameIsReadByReceive
  intro s t ty et p m later hidle hopen hp hm hclosed hpending hscript he
  rw [exec_frame, frameBytes_eq_wireFrame] at he
  cases he
  have hread : readAnswer m (arrive (wireFrame s.addr ty.code p) s).chan = some (wireFrame s.addr ty.code p) := by
    rw [readAnswer_quiet m (arrive _ s).chan [] m 0 later hscript hclosed]
    simp [hpending, wireFrame_length, frameOverhead, hm]
  have hout : receiveOutcome et.code m (accept (arrive (wireFrame s.addr ty.code p) s)) =
      if et = ty then .ok p else .error .typeMismatch := by
    rw [receiveOutcome_eq, accept_chan, hread]
    exact validate_wireFrame_code s.addr ty et hp
  refine ⟨_, exec_accepted_receive hidle hopen, ?_⟩
  rw [hout]
  split <;> rfl

/-! ### The other inputs of a step -/

theorem fetch_link_of_decodeFrame_error {bs : Bytes} {e : DecodeError} (rest : List Input)
    (h : decodeFrame bs = .error e) : fetch (.link bs :: rest) = .noise bs rest := by
  simp only [fetch, fetchLink, h]

theorem fetch_request_of_decodeRequest_badOp {msg : Bytes} {op : BitVec 4} (rest : List Input)
    (h : decodeRequest msg = .error (.badOp op)) : fetch (.request msg :: rest) = .reservedOp rest := by
  simp only [fetch, fetchRequest, h]

theorem fetch_request_of_decodeRequest_error {msg : Bytes} {e : DecodeError} (rest : List Input)
    (h : decodeRequest msg = .error e) (he : ∀ op, e ≠ .badOp op) :
    fetch (.request msg :: rest) = .notARequest e := by
  cases e with
  | badOp op => exact absurd rfl (he op)
  | _ => simp only [fetch, fetchRequest, h]

/-- Settles O5: each input fetches one of the six kinds that are no instruction, which says what the step does. -/
theorem stepOnOtherInputs : Obligations.StepOnOtherInputs := by
  unfold Obligations.StepOnOtherInputs
  refine ⟨?_, ?_, ?_, ?_, ?_, ?_⟩
  · intro s bs e rest hin hdec
    exact step_of_fetch_noise (hin ▸ fetch_link_of_decodeFrame_error rest hdec)
  · intro s rest hin
    exact step_of_fetch_closing (rest := rest) (by rw [hin, fetch])
  · intro s msg op rest hin hdec
    exact step_of_fetch_reservedOp (hin ▸ fetch_request_of_decodeRequest_badOp rest hdec)
  · intro s msg e rest hin hdec he
    exact step_of_fetch_notARequest (hin ▸ fetch_request_of_decodeRequest_error rest hdec he)
  · intro s rest hin
    exact step_of_fetch_resetting (rest := rest) (by rw [hin, fetch])
  · intro s hin
    exact step_of_fetch_nothing (by rw [hin, fetch])

end Sys2Proof.Proofs
end

section
/-! The family 20_memory.md: what the input flush at the start of a TRANSFER makes of stale input (R61, R157). The
channel's answer to a call does not depend on what is pending, so the flush is where the pending input drops out. -/

namespace Sys2Proof.Proofs

open Sys2Proof Sys2Proof.Machine

/-! ### The channel's answers and the pending input -/

theorem nextEvent_with_pending (c : Channel) (stale : Bytes) :
    nextEvent { c with pending := stale } = nextEvent c := rfl

theorem takeEvent_with_pending (c : Channel) (stale : Bytes) :
    takeEvent { c with pending := stale } = { takeEvent c with pending := stale } := by
  cases hscript : c.script <;> simp only [takeEvent, hscript]

/-- R152: the flush leaves nothing of what was pending. -/
theorem chanFlushInput_with_pending (c : Channel) (stale : Bytes) :
    chanFlushInput { c with pending := stale } = chanFlushInput c := by
  simp only [chanFlushInput, meetEvent, takeEvent_with_pending, nextEvent_with_pending]

/-! ### TRANSFER -/

theorem transferFlush_with_pending (s : State) (stale : Bytes) :
    transferFlush { s with chan := { s.chan with pending := stale } } = transferFlush s := by
  simp only [transferFlush, chanFlushInput_with_pending]

/-- An accepted TRANSFER is its exchange, run from the flushed channel (R157). -/
theorem exec_accepted_transfer {p : Bytes} (elen : Nat) {s : State} (hidle : isIdle s = true)
    (hopen : s.opened = true) (hp : p.length ≤ maxPayload) :
    exec (.transfer p elen) s = .next (conclude (transferExchange p elen (transferFlush (accept s))).2
      (transferExchange p elen (transferFlush (accept s))).1) :=
  exec_accepted rfl (accepted_transfer hidle hopen elen hp)

/-- Settles O44: both states are idle and open, so both transfers are accepted, and they start their exchange from
the same flushed state. -/
theorem transferIgnoresStaleInput : Obligations.TransferIgnoresStaleInput := by
  unfold Obligations.TransferIgnoresStaleInput
  intro s stale p elen hidle hopen hp
  have hflush : transferFlush (accept { s with chan := { s.chan with pending := stale } }) =
      transferFlush (accept s) := transferFlush_with_pending (accept s) stale
  rw [exec_accepted_transfer elen hidle hopen hp,
    exec_accepted_transfer (s := { s with chan := { s.chan with pending := stale } }) elen hidle hopen hp, hflush]

end Sys2Proof.Proofs
end

section
/-! The family 30_encoding.md: a well-formed instruction is read back from its bytes and a frame has no other bytes
(R70, R78 to R84); what a request's refusal changes (R85); TRANSFER and DOWNLOAD as the composites of R87.
A download is compared with one that has gone a packet less far (`DownloadAhead`). -/

namespace Sys2Proof.Proofs

open Sys2Proof Sys2Proof.Machine Sys2Proof.Laws

/-! ### Requests -/

theorem selectorOf_toNat (b : Byte) : (selectorOf b).toNat = b.toNat % 16 := by
  simp [selectorOf]

/-- R84. -/
theorem decodeRequest_reserved {b : Byte} (bs : Bytes) (h : 10 ≤ b.toNat % 16) :
    decodeRequest (b :: bs) = .error (.badOp (selectorOf b)) := by
  rw [decodeRequest, if_pos (by rwa [selectorOf_toNat])]

theorem decodeRequest_operands {b : Byte} {bs : Bytes} {r : Instr × Bytes} (h : b.toNat % 16 < 10)
    (hops : takeOperands (selectorOf b) bs = some r) : decodeRequest (b :: bs) = .ok r := by
  rw [decodeRequest, if_neg (by rw [selectorOf_toNat]; omega), hops]

/-- A selector byte is no start code, so the decoder reads a request. -/
theorem decode_operands {b : Byte} {bs : Bytes} {r : Instr × Bytes} (h : b.toNat < 10)
    (hops : takeOperands (selectorOf b) bs = some r) : decode (b :: bs) = .ok r := by
  have hstart : b ≠ 0xEF := by rintro rfl; exact absurd h (by decide)
  rw [decode, if_neg hstart, decodeRequest_operands (by omega) hops]

/-- R83: the operands of each operation are read back in the order they are written. -/
theorem decode_encode_request (i : Instr) (rest : Bytes) (hi : isRequest i = true) :
    decode (encode i ++ rest) = .ok (i, rest) := by
  cases i with
  | frameCommand | frameData | frameAck | frameEndData => cases hi
  | _ => exact decode_operands (by decide) (by simp [takeOperands, selectorOf])

/-- Settles O6: a reserved selector is found whatever follows it, and the step refuses it. -/
theorem reservedSelectorIsRefused : Obligations.ReservedSelectorIsRefused := by
  unfold Obligations.ReservedSelectorIsRefused
  intro s b msg rest hin hb
  exact step_of_fetch_reservedOp
    (hin ▸ fetch_request_of_decodeRequest_badOp rest (decodeRequest_reserved msg hb))

/-! ### Frames -/

theorem encode_frameInstr (t : PacketType) (a : Word32) (len : Word16) (body : Bytes) :
    encode (frameInstr t a len body) = frameBytes a t len body := by
  cases t <;> rfl

theorem wellFormed_frameInstr (t : PacketType) (a : Word32) (len : Word16) (body : Bytes) :
    wellFormed (frameInstr t a len body) = bodyFits len body := by
  cases t <;> rfl

theorem isRequest_frameInstr (t : PacketType) (a : Word32) (len : Word16) (body : Bytes) :
    isRequest (frameInstr t a len body) = false := by
  cases t <;> rfl

/-- R78: a body of the length that the field says is read back, whatever follows it. -/
theorem decodeFrame_frameBytes (t : PacketType) (a : Word32) (len : Word16) {body : Bytes} (rest : Bytes)
    (hbody : body.length = len.toNat) :
    decodeFrame (frameBytes a t len body ++ rest) = .ok (frameInstr t a len body, rest) := by
  rw [frameBytes, List.append_assoc, decodeFrame_header]
  simp [decodeFrameBody, ← hbody]

/-- The first byte of the start code makes the decoder read a frame. -/
theorem decode_frameBytes (t : PacketType) (a : Word32) (len : Word16) (body rest : Bytes) :
    decode (frameBytes a t len body ++ rest) = decodeFrame (frameBytes a t len body ++ rest) := by
  simp [decode, frameBytes, frameHeader]

/-- Settles O1: an instruction is a request, read back operand by operand, or a frame. -/
theorem decodeEncodeRoundTrip : Obligations.DecodeEncodeRoundTrip := by
  unfold Obligations.DecodeEncodeRoundTrip
  intro i rest hwf
  rcases isRequest_or_frame i with hi | ⟨t, a, len, body, rfl⟩
  · exact decode_encode_request i rest hi
  · rw [wellFormed_frameInstr, bodyFits, beq_iff_eq] at hwf
    rw [encode_frameInstr, decode_frameBytes, decodeFrame_frameBytes t a len rest hwf]

/-- A frame that is read is of one of the four types, and its length field cuts the bytes after the header. -/
theorem decodeFrameBody_eq_ok {a : Word32} {c : Byte} {len : Word16} {bs rest : Bytes} {i : Instr}
    (h : decodeFrameBody a c len bs = .ok (i, rest)) :
    ∃ t body, c = PacketType.code t ∧ i = frameInstr t a len body ∧ body.length = len.toNat ∧ bs = body ++ rest := by
  unfold decodeFrameBody at h
  split at h
  · cases h
  · rename_i t ht
    split at h
    · cases h
    · cases h
      exact ⟨t, bs.take len.toNat, ofCode?_eq_some ht, rfl, by rw [List.length_take]; omega,
        (List.take_append_drop _ _).symm⟩

/-- A string that reads as a frame has a whole header at its front (R70). -/
theorem decodeFrame_eq_ok {bs rest : Bytes} {i : Instr} (h : decodeFrame bs = .ok (i, rest)) :
    ∃ a c len more, bs = frameHeader a c len ++ more ∧ decodeFrameBody a c len more = .ok (i, rest) := by
  unfold decodeFrame at h
  split at h
  · rename_i s0 s1 a0 a1 a2 a3 c l0 l1 more
    split at h
    · rename_i hstart
      obtain ⟨rfl, rfl⟩ := hstart
      exact ⟨_, c, _, more, by simp [frameHeader, be32_fromBe32, be16_fromBe16], h⟩
    · cases h
  · cases h
  · cases h

/-- Settles O2: the header and the body are cut from the string without a change. -/
theorem decodedFrameHasItsBytes : Obligations.DecodedFrameHasItsBytes := by
  unfold Obligations.DecodedFrameHasItsBytes
  intro bs i rest h
  obtain ⟨a, c, len, more, rfl, hbody⟩ := decodeFrame_eq_ok h
  obtain ⟨t, body, rfl, rfl, hlen, rfl⟩ := decodeFrameBody_eq_ok hbody
  refine ⟨?_, ?_, isRequest_frameInstr t a len body⟩
  · rw [encode_frameInstr, frameBytes, List.append_assoc]
  · rw [wellFormed_frameInstr, bodyFits, hlen, beq_self_eq_true]

/-! ### The spec's words -/

/-- Settles O3: each word is read by the decoder. -/
theorem specWordsDecode : Obligations.SpecWordsDecode := by
  unfold Obligations.SpecWordsDecode
  refine ⟨?_, ?_, ?_, ?_, ?_, ?_, ?_, ?_, ?_, ?_⟩ <;> decide

/-! ### Refused requests -/

/-- Settles O36: a refused request is `refuse`, and an accepted one ends with a value or an error. -/
theorem refusedRequestChangesOnlyRefAndErr : Obligations.RefusedRequestChangesOnlyRefAndErr := by
  unfold Obligations.RefusedRequestChangesOnlyRefAndErr
  intro s t i r hi he
  rcases exec_request_cases i hi s t he with ⟨q, hq, rfl⟩ | ⟨ha, ⟨v, _, rfl⟩ | ⟨k, _, _, rfl⟩⟩
  · rw [hq]
    refine ⟨fun h => ?_, fun h => by cases h⟩
    cases h
    rfl
  · simp [ha]
  · simp [ha]

/-! ### TRANSFER -/

theorem exec_accepted_sendCommand {p : Bytes} {s : State} (hidle : isIdle s = true) (hopen : s.opened = true)
    (hp : p.length ≤ maxPayload) :
    exec (.sendCommand p) s = .next (conclude (unitResult (sendOutcome PacketType.command.code p (accept s)))
      (sendFrame PacketType.command.code p (accept s))) :=
  exec_accepted rfl (accepted_sendCommand hidle hopen hp)

/-- A codec outcome always ends the operation. -/
theorem bytesResult_eq_some (x : Except ErrorKind Bytes) : ∃ r, bytesResult x = some r := by
  cases x <;> exact ⟨_, rfl⟩

/-- R156: a receive neither reads nor writes ERR and the result. -/
theorem receiveBody_with_result (et : Byte) (m : Nat) (s : State) (e : BitVec 4) (r : Option OpResult) :
    receiveBody et m { s with err := e, result := r } =
      ({ (receiveBody et m s).1 with err := e, result := r }, (receiveBody et m s).2) := by
  have hout : receiveOutcome et m { s with err := e, result := r } = receiveOutcome et m s := by
    simp only [receiveOutcome_eq]
  have hframe : receiveFrame et m { s with err := e, result := r } =
      { receiveFrame et m s with err := e, result := r } := by
    unfold receiveFrame
    cases readAnswer m s.chan with
    | none => rfl
    | some bs =>
      obtain ⟨hrx, hcsum⟩ := rxRead_congr bs s.addr et
        { s with err := e, result := r, chan := chanRead m s.timeout s.chan }
        { s with chan := chanRead m s.timeout s.chan } rfl
      simp only [decodeBuffer_eq, hrx, hcsum]
  rw [receiveBody, receiveBody, hout, hframe]

/-- R216, R259: the end of an operation writes ERR and the result, whatever they were. -/
theorem conclude_with_result (x : Except ErrorKind OpValue) (s : State) (e : BitVec 4) (r : Option OpResult) :
    conclude (some x) { s with err := e, result := r } = conclude (some x) s := by
  cases x <;> rfl

theorem transferFlush_accept (s : State) : transferFlush (accept s) = accept (transferFlush s) := rfl

/-- The machines are idle after a frame that an operation sends from idle machines (R116). -/
theorem idleMachines_sendFrame {t : Byte} {p : Bytes} {s : State} (hp : p.length ≤ maxPayload)
    (hrx : s.rx.rxph = .idle) (hsq : s.sq.seq = .idle) :
    idleMachines (sendFrame t p s) = sendFrame t p s := by
  rw [sendFrame_eq _ _ _ hp, idleMachines, ← hrx, ← hsq]

/-- A RECEIVE accepted after a success starts as it would in the middle of the operation, ERR and the result aside. -/
theorem accept_succeed {v : OpValue} {s : State} (hbusy : s.busy = true) (href : s.ref = 0)
    (hidle : idleMachines s = s) :
    accept (succeed v s) = { s with err := 0, result := some (.ok v) } := by
  rw [succeed, hidle, accept, ← hbusy, ← href]

/-- A RECEIVE that follows a success gives what a receive within that operation would have given. -/
theorem exec_receive_succeed {et : PacketType} {m : Nat} {v : OpValue} {s : State} (hbusy : s.busy = true)
    (href : s.ref = 0) (hopen : s.opened = true) (hidle : idleMachines s = s) :
    exec (.receive et.code m) (succeed v s) =
      .next (conclude (receiveBody et.code m s).2 (receiveBody et.code m s).1) := by
  obtain ⟨x, hx⟩ : ∃ x, (receiveBody et.code m s).2 = some x := bytesResult_eq_some _
  have ha := accepted_receive (s := succeed v s) (isIdle_conclude (.ok v) s) hopen m (badType_code et)
  rw [exec_accepted rfl ha, bodyOf, accept_succeed hbusy href hidle, receiveBody_with_result, hx,
    conclude_with_result]

/-- Settles O22: both start with the same send, and after it TRANSFER receives within its operation what a RECEIVE
after SEND_COMMAND receives in its own. -/
theorem transferIsFlushSendReceive : Obligations.TransferIsFlushSendReceive := by
  unfold Obligations.TransferIsFlushSendReceive
  intro s t p elen hidle hopen hp hsend
  have hflush : exec (.sendCommand p) (transferFlush s) = .next t := hsend
  rw [exec_accepted_sendCommand (s := transferFlush s) hidle hopen hp, ← transferFlush_accept] at hflush
  rw [exec_accepted_transfer elen hidle hopen hp, transferExchange]
  cases hout : sendOutcome PacketType.command.code p (transferFlush (accept s)) with
  | error k =>
    rw [hout] at hflush
    cases hflush
    exact ⟨fun _ => rfl, fun h => by cases h⟩
  | ok _ =>
    rw [hout] at hflush
    cases hflush
    refine ⟨fun h => (by cases h), fun _ => ?_⟩
    obtain ⟨_, _, hrx, hsq⟩ := (isIdle_iff s).1 hidle
    obtain ⟨⟨_, href, hbusy, _⟩, _, _, hopened⟩ := sendFrame_keeps PacketType.command.code p (transferFlush (accept s))
    exact (exec_receive_succeed (et := .ack) hbusy href (hopened.trans hopen)
      (idleMachines_sendFrame (s := transferFlush (accept s)) hp hrx hsq)).symm

/-! ### The step of a download -/

/-- What the frame of a download step turns out to be (R186). -/
def dlOutcome (s : State) : Except ErrorKind Bytes :=
  receiveOutcome (bulkType s.sq) (s.sq.pktsz.toNat + frameOverhead) s

theorem dlStep_of_error {s : State} {k : ErrorKind} (h : dlOutcome s = .error k) :
    (dlStep s).2 = some (.error k) := by
  rw [dlOutcome] at h
  simp only [dlStep, h]

theorem dlStep_of_last {s : State} {p : Bytes} (h : dlOutcome s = .ok p) (hlast : isLast s.sq = true) :
    (dlStep s).2 = some (.ok (.bytes (s.bulk ++ p))) := by
  rw [dlOutcome] at h
  simp only [dlStep, h, hlast, if_true, receiveFrame_bulk]

theorem dlStep_of_empty {s : State} (h : dlOutcome s = .ok []) (hlast : isLast s.sq = false) :
    (dlStep s).2 = some (.error .shortTransfer) := by
  rw [dlOutcome] at h
  simp [dlStep, h, hlast]

theorem dlStep_of_payload {s : State} {p : Bytes} (h : dlOutcome s = .ok p) (hlast : isLast s.sq = false)
    (hp : p ≠ []) :
    dlStep s = ({ receiveFrame (bulkType s.sq) (s.sq.pktsz.toNat + frameOverhead) s with
      bulk := s.bulk ++ p, sq := { s.sq with idx := s.sq.idx + 1 } }, none) := by
  rw [dlOutcome] at h
  simp [dlStep, h, hlast, hp]

/-- A download step that does not end the transfer has received a payload, and more frames follow. -/
theorem dlStep_of_none {s : State} (h : (dlStep s).2 = none) :
    ∃ p, dlOutcome s = .ok p ∧ isLast s.sq = false ∧ p ≠ [] := by
  cases hout : dlOutcome s with
  | error k => cases (dlStep_of_error hout).symm.trans h
  | ok p =>
    cases hlast : isLast s.sq with
    | true => cases (dlStep_of_last hout hlast).symm.trans h
    | false =>
      refine ⟨p, rfl, rfl, ?_⟩
      rintro rfl
      cases (dlStep_of_empty hout hlast).symm.trans h

theorem dlRun_of_some {fuel : Nat} {s : State} {r : Except ErrorKind OpValue} (h : (dlStep s).2 = some r) :
    dlRun (fuel + 1) s = dlStep s := by
  rw [dlRun]
  split
  · rename_i hstep; rw [hstep]
  · rename_i hstep; rw [hstep] at h; cases h

theorem dlRun_of_none {fuel : Nat} {s : State} (h : (dlStep s).2 = none) :
    dlRun (fuel + 1) s = dlRun fuel (dlStep s).1 := by
  rw [dlRun]
  split
  · rename_i hstep; rw [hstep] at h; cases h
  · rename_i hstep; rw [hstep]

/-! ### Two downloads of which one has gone further -/

/-- What a download returns when the payload `pre` stands in front of its own. -/
def prependBytes (pre : Bytes) : Except ErrorKind OpValue → Except ErrorKind OpValue
  | .ok (.bytes q) => .ok (.bytes (pre ++ q))
  | r => r

/-- `s` has as many packets to come as `t`, under the same session and with the same channel, and has `pre` in BULK
in front of what `t` has. -/
structure DownloadAhead (pre : Bytes) (s t : State) : Prop where
  addr : s.addr = t.addr
  timeout : s.timeout = t.timeout
  chan : s.chan = t.chan
  size : s.sq.pktsz = t.sq.pktsz
  left : s.sq.idx + t.sq.cntn = t.sq.idx + s.sq.cntn
  bulk : s.bulk = pre ++ t.bulk

section DownloadAhead

variable {pre : Bytes} {s t : State} (h : DownloadAhead pre s t)
include h

theorem DownloadAhead.isLast_eq : isLast s.sq = isLast t.sq := by
  have := h.left
  rw [isLast, isLast, Bool.eq_iff_iff, beq_iff_eq, beq_iff_eq]
  omega

/-- The outcome of a receive depends on ADDR and the channel alone. -/
theorem DownloadAhead.dlOutcome_eq : dlOutcome s = dlOutcome t := by
  simp only [dlOutcome, bulkType, receiveOutcome_eq, h.isLast_eq, h.size, h.addr, h.chan]

theorem DownloadAhead.dlStep_chan_eq : (dlStep s).1.chan = (dlStep t).1.chan := by
  rw [dlStep_chan, dlStep_chan, h.size, h.timeout, h.chan]

theorem DownloadAhead.dlStep_result : (dlStep s).2 = (dlStep t).2.map (prependBytes pre) := by
  cases hout : dlOutcome t with
  | error k => rw [dlStep_of_error (h.dlOutcome_eq.trans hout), dlStep_of_error hout]; rfl
  | ok p =>
    have hs := h.dlOutcome_eq.trans hout
    cases hlast : isLast t.sq with
    | true =>
      rw [dlStep_of_last hs (h.isLast_eq.trans hlast), dlStep_of_last hout hlast, h.bulk, List.append_assoc]
      rfl
    | false =>
      by_cases hp : p = []
      · subst hp
        rw [dlStep_of_empty hs (h.isLast_eq.trans hlast), dlStep_of_empty hout hlast]
        rfl
      · rw [dlStep_of_payload hs (h.isLast_eq.trans hlast) hp, dlStep_of_payload hout hlast hp]
        rfl

/-- Both go on to the next frame, with the same payload behind what they have. -/
theorem DownloadAhead.of_dlStep_none (hnone : (dlStep t).2 = none) : DownloadAhead pre (dlStep s).1 (dlStep t).1 := by
  obtain ⟨p, hout, hlast, hp⟩ := dlStep_of_none hnone
  rw [dlStep_of_payload (h.dlOutcome_eq.trans hout) (h.isLast_eq.trans hlast) hp, dlStep_of_payload hout hlast hp]
  obtain ⟨haddr, htimeout, hchan, hsize, hleft, hbulk⟩ := h
  refine ⟨by simp [haddr], by simp [htimeout], by simp [hsize, htimeout, hchan], hsize, ?_, by simp [hbulk]⟩
  dsimp only
  omega

end DownloadAhead

/-- The rest of a download depends on the session, the channel and the packets to come alone. -/
theorem DownloadAhead.dlRun_eq {pre : Bytes} (fuel : Nat) : ∀ {s t : State}, DownloadAhead pre s t →
    (dlRun fuel s).2 = (dlRun fuel t).2.map (prependBytes pre) ∧ (dlRun fuel s).1.chan = (dlRun fuel t).1.chan := by
  induction fuel with
  | zero => intro s t h; exact ⟨rfl, h.chan⟩
  | succ fuel ih =>
    intro s t h
    have hresult := h.dlStep_result
    cases ht : (dlStep t).2 with
    | some r =>
      rw [ht] at hresult
      rw [dlRun_of_some ht, dlRun_of_some hresult, hresult, ht]
      exact ⟨rfl, h.dlStep_chan_eq⟩
    | none =>
      rw [ht] at hresult
      rw [dlRun_of_none ht, dlRun_of_none hresult]
      exact ih (h.of_dlStep_none ht)

/-! ### The start of a download -/

theorem dlStart_pktsz (n : Nat) {size : Nat} (s : State) (h : size ≤ maxPayload) :
    (dlStart n size s).sq.pktsz.toNat = size := by
  have hm : size ≤ 65533 := h
  simp only [dlStart, BitVec.toNat_ofNat]
  omega

/-- The only packet of a download is its last (R180). -/
theorem isLast_dlStart (n size : Nat) (s : State) : isLast (dlStart (n + 1) size s).sq = (n == 0) := by
  simp [isLast, dlStart]

/-- R181: the first packet of a download is received as RECEIVE does, with the packet size as its bound. -/
theorem dlOutcome_dlStart (n : Nat) {size : Nat} (s : State) (h : size ≤ maxPayload) :
    dlOutcome (dlStart (n + 1) size s) =
      receiveOutcome (if n == 0 then PacketType.endData.code else PacketType.data.code) (size + frameOverhead) s := by
  rw [dlOutcome, bulkType, isLast_dlStart, dlStart_pktsz _ _ h]
  simp only [receiveOutcome_eq, dlStart]

theorem dlStep_dlStart_chan (n : Nat) {size : Nat} (s : State) (h : size ≤ maxPayload) :
    (dlStep (dlStart n size s)).1.chan = chanRead (size + frameOverhead) s.timeout s.chan := by
  rw [dlStep_chan, dlStart_pktsz _ _ h]
  rfl

/-- A download of one packet returns what the receive gives. -/
theorem dlStep_dlStart_one {size : Nat} (s : State) (h : size ≤ maxPayload) :
    (dlStep (dlStart 1 size s)).2 =
      bytesResult (receiveOutcome PacketType.endData.code (size + frameOverhead) s) := by
  have hout := dlOutcome_dlStart 0 s h
  cases hrecv : receiveOutcome PacketType.endData.code (size + frameOverhead) s with
  | error k => exact dlStep_of_error (hout.trans hrecv)
  | ok p => exact dlStep_of_last (hout.trans hrecv) (isLast_dlStart 0 size s)

/-- After a first payload the download is where one of a packet less starts, that payload apart. -/
theorem downloadAhead_dlStart {n size : Nat} {s t : State} {p : Bytes} (hsize : size ≤ maxPayload)
    (hout : receiveOutcome PacketType.data.code (size + frameOverhead) s = .ok p) (hp : p ≠ [])
    (haddr : t.addr = s.addr) (htimeout : t.timeout = s.timeout)
    (hchan : t.chan = chanRead (size + frameOverhead) s.timeout s.chan) :
    (dlStep (dlStart (n + 2) size s)).2 = none ∧
      DownloadAhead p (dlStep (dlStart (n + 2) size s)).1 (dlStart (n + 1) size t) := by
  have hchan' := (dlStep_dlStart_chan (n + 2) s hsize).trans hchan.symm
  rw [dlStep_of_payload ((dlOutcome_dlStart (n + 1) s hsize).trans hout) (isLast_dlStart (n + 1) size s) hp] at hchan' ⊢
  refine ⟨rfl, ⟨by simp [dlStart, haddr], by simp [dlStart, htimeout], hchan', rfl, ?_, by simp [dlStart]⟩⟩
  dsimp only [dlStart]
  omega

/-! ### DOWNLOAD -/

/-- The result that the end of an operation delivers (R85). -/
def delivered : Except ErrorKind OpValue → OpResult
  | .ok v => .ok v
  | .error k => .error k

@[simp] theorem conclude_result (r : Except ErrorKind OpValue) (s : State) :
    (conclude (some r) s).result = some (delivered r) := by
  cases r <;> rfl

/-- What an accepted RECEIVE leaves for the operations after it. -/
theorem exec_receive_next {et : PacketType} {m : Nat} {s t : State} (hidle : isIdle s = true)
    (hopen : s.opened = true) (he : exec (.receive et.code m) s = .next t) :
    t.result = (bytesResult (receiveOutcome et.code m (accept s))).map delivered ∧
      t.chan = chanRead m s.timeout s.chan ∧ t.addr = s.addr ∧ t.timeout = s.timeout ∧ t.opened = true ∧
      isIdle t = true := by
  obtain ⟨r, hr⟩ := bytesResult_eq_some (receiveOutcome et.code m (accept s))
  obtain ⟨haddr, htimeout, hopened⟩ := exec_keeps_session he (by simp) (by simp)
  cases (exec_accepted_receive hidle hopen).symm.trans he
  refine ⟨?_, by simp, haddr, htimeout, hopened.trans hopen, ?_⟩
  · rw [hr, conclude_result, Option.map_some]
  · rw [hr]
    exact isIdle_conclude r _

section AcceptedDownload

variable {s : State} (hidle : isIdle s = true) (hopen : s.opened = true) {size : Nat} (h1 : 1 ≤ size)
  (h2 : size ≤ maxPayload)
include hidle hopen h1 h2

theorem exec_accepted_download (n : Nat) :
    exec (.download (n + 1) size) s = .next (conclude (dlRun (n + 1) (dlStart (n + 1) size (accept s))).2
      (dlRun (n + 1) (dlStart (n + 1) size (accept s))).1) :=
  exec_accepted rfl (accepted_download hidle hopen (Nat.le_add_left 1 n) h1 h2)

theorem exec_download_ends_first {n : Nat} {r : Except ErrorKind OpValue}
    (h : (dlStep (dlStart (n + 1) size (accept s))).2 = some r) :
    ∃ u, exec (.download (n + 1) size) s = .next u ∧ u.result = some (delivered r) ∧
      u.chan = chanRead (size + frameOverhead) s.timeout s.chan := by
  refine ⟨_, exec_accepted_download hidle hopen h1 h2 n, ?_⟩
  rw [dlRun_of_some h, h, conclude_result, conclude_chan, dlStep_dlStart_chan _ _ h2]
  exact ⟨rfl, rfl⟩

/-- After a first payload `p`, DOWNLOAD ends as a download of one packet less does that starts in the session and
channel which the receive leaves, with `p` in front of what that one returns. -/
theorem exec_download_goes_on (n : Nat) {t : State} {p : Bytes}
    (hout : receiveOutcome PacketType.data.code (size + frameOverhead) (accept s) = .ok p) (hp : p ≠ [])
    (he : exec (.receive PacketType.data.code (size + frameOverhead)) s = .next t) :
    ∃ u, exec (.download (n + 2) size) s = .next u ∧ ∀ v, exec (.download (n + 1) size) t = .next v →
      u.chan = v.chan ∧ ∃ r, v.result = some (delivered r) ∧ u.result = some (delivered (prependBytes p r)) := by
  obtain ⟨_, hchan, haddr, htimeout, htopen, htidle⟩ := exec_receive_next hidle hopen he
  have ha := accepted_download htidle htopen (Nat.le_add_left 1 n) h1 h2
  obtain ⟨r, hr⟩ : ∃ r, (dlRun (n + 1) (dlStart (n + 1) size (accept t))).2 = some r :=
    body_ends (.download (n + 1) size) rfl (accept t) _ _ _ ha
  obtain ⟨hnone, hahead⟩ :=
    downloadAhead_dlStart (n := n) (s := accept s) (t := accept t) h2 hout hp haddr htimeout hchan
  obtain ⟨hresult, hrest⟩ := hahead.dlRun_eq (n + 1)
  refine ⟨_, exec_accepted_download hidle hopen h1 h2 (n + 1), fun v hv => ?_⟩
  cases (exec_accepted_download htidle htopen h1 h2 n).symm.trans hv
  rw [dlRun_of_none hnone, hresult, hr, Option.map_some, conclude_chan, conclude_chan]
  exact ⟨hrest, r, conclude_result _ _, conclude_result _ _⟩

end AcceptedDownload

theorem prependBytes_delivered {p : Bytes} {r : Except ErrorKind OpValue} :
    (∀ k, delivered r = .error k → delivered (prependBytes p r) = .error k) ∧
      ∀ q, delivered r = .ok (.bytes q) → delivered (prependBytes p r) = .ok (.bytes (p ++ q)) := by
  cases r with
  | error j => exact ⟨fun _ h => h, fun _ h => by cases h⟩
  | ok v => exact ⟨fun _ h => (by cases h), fun _ h => by cases h; rfl⟩

/-- Settles O28: the first packet's step receives as RECEIVE does, and where it does not end the transfer the rest is
the download of one packet less, with the payload in front. -/
theorem downloadIsRepeatedReceive : Obligations.DownloadIsRepeatedReceive := by
  unfold Obligations.DownloadIsRepeatedReceive
  intro s t n size hidle hopen h1 h2
  refine ⟨fun he => ?_, fun he => ?_⟩
  · obtain ⟨htresult, htchan, _⟩ := exec_receive_next (et := .endData) hidle hopen he
    obtain ⟨r, hr⟩ := bytesResult_eq_some (receiveOutcome PacketType.endData.code (size + 11) (accept s))
    obtain ⟨u, hu, hresult, hchan⟩ := exec_download_ends_first (n := 0) hidle hopen h1 h2
      ((dlStep_dlStart_one (accept s) h2).trans hr)
    rw [hr] at htresult
    exact ⟨u, hu, hresult.trans htresult.symm, hchan.trans htchan.symm⟩
  · obtain ⟨htresult, htchan, _⟩ := exec_receive_next (et := .data) hidle hopen he
    have hout := dlOutcome_dlStart (n + 1) (accept s) h2
    cases hrecv : receiveOutcome PacketType.data.code (size + 11) (accept s) with
    | error k =>
      rw [hrecv] at htresult
      obtain ⟨u, hu, hresult, hchan⟩ := exec_download_ends_first hidle hopen h1 h2
        (dlStep_of_error (hout.trans hrecv))
      refine ⟨u, hu, fun j hj => ?_, fun h => ?_, fun b p v h => ?_⟩
      · exact ⟨hresult.trans (htresult.symm.trans hj), hchan.trans htchan.symm⟩
      all_goals cases htresult.symm.trans h
    | ok p =>
      rw [hrecv] at htresult
      by_cases hp : p = []
      · subst hp
        obtain ⟨u, hu, hresult, hchan⟩ := exec_download_ends_first hidle hopen h1 h2
          (dlStep_of_empty (hout.trans hrecv) (isLast_dlStart (n + 1) size (accept s)))
        refine ⟨u, hu, fun j h => ?_, fun _ => ⟨hresult, hchan.trans htchan.symm⟩, fun b p v h => ?_⟩
        all_goals cases htresult.symm.trans h
      · obtain ⟨u, hu, hrest⟩ := exec_download_goes_on hidle hopen h1 h2 n hrecv hp he
        refine ⟨u, hu, fun j h => ?_, fun h => ?_, fun b q v h hv => ?_⟩
        · cases htresult.symm.trans h
        · cases htresult.symm.trans h; exact absurd rfl hp
        · cases htresult.symm.trans h
          obtain ⟨hchan, r, hvresult, huresult⟩ := hrest v hv
          obtain ⟨herror, hok⟩ := prependBytes_delivered (p := b :: q) (r := r)
          rw [hvresult, huresult]
          simp only [Option.some.injEq]
          exact ⟨hchan, herror, hok⟩

end Sys2Proof.Proofs
end

section
/-! The family 40_frame_codec.md: one step of the codec machines (R110 to R124), the agreement of the two levels of the
codec (R108), ENCODE and DECODE (R100, R101, R106, R107), and what the operations that send and read frames write. The
checks of R101 are said once, as lemmas about `validate`; DECODE delivers what its operand validates to. -/

namespace Sys2Proof.Proofs

open Sys2Proof Sys2Proof.Machine Sys2Proof.Laws

/-! ### One step of a machine -/

/-- R110: outside T_IDLE a step emits a byte. -/
theorem txStep_of_busy {s : State} (hbusy : s.tx.txph ≠ .idle) :
    txStep s = { s with
      frame := s.frame ++ [txByte s]
      csum := if txCovered s.tx.txph then addByte s.csum (txByte s) else s.csum
      tx := txNext s.tx } :=
  if_neg hbusy

/-- R114: after the second length byte. -/
theorem txNext_len_second {m : TxMachine} (hph : m.txph = .len) (hi : m.txi ≠ 0) :
    txNext m = { m with txi := 0, txph := if m.txlen = 2 then .ck else .pay } := by
  simp only [txNext, hph, if_neg hi]
  split <;> rfl

/-- R115. -/
theorem txNext_pay {m : TxMachine} (hph : m.txph = .pay) :
    txNext m = { m with
      txcnt := m.txcnt + 1
      txph := if m.txcnt + 1 = m.txlen - 2 then .ck else .pay } := by
  simp only [txNext, hph]
  split
  · rfl
  · rw [← hph]

/-- Settles O17: with the phase and the sub-index known the step computes; the rest is which bytes are left to send. -/
theorem transmitStepByPhase : Obligations.TransmitStepByPhase := by
  unfold Obligations.TransmitStepByPhase
  rintro ⟨_, _, _, _, _, _, csum, ⟨txph, txi, txa, txtyp, txlen, txcnt⟩, _, _, txpay, _, _, _, frame, _, _, _⟩ emit
  dsimp only
  refine ⟨?_, ?_, ?_, ?_, ?_, ?_, ?_, ?_, ?_, ?_, ?_, ?_⟩
  · rintro rfl rfl; rfl
  · rintro rfl hi; simp only [txStep, txByte, txNext, if_neg hi]; rfl
  · rintro rfl rfl; rfl
  · rintro rfl rfl; rfl
  · rintro rfl rfl; rfl
  · rintro rfl rfl; rfl
  · rintro rfl; rfl
  · rintro rfl rfl; rfl
  · rintro rfl hi
    rw [txStep_of_busy (by simp), txNext_len_second rfl hi]
    simp only [txByte, if_neg hi]
    rfl
  · rintro b rfl hb
    rw [txStep_of_busy (by simp), txNext_pay rfl]
    simp only [txByte, memReadByte, hb]
    rfl
  · rintro rfl rfl; rfl
  · rintro rfl hi; simp only [txStep, txByte, txNext, if_neg hi]; rfl

/-- Settles O18: with the phase known the step computes up to the comparisons, which the premises decide. -/
theorem receiveStepByPhase : Obligations.ReceiveStepByPhase := by
  unfold Obligations.ReceiveStepByPhase
  rintro ⟨_, _, _, _, _, _, csum, _, ⟨rxph, rxi, shift, ea, et, rxlen, rxcnt, got, rxerr⟩, _, _, _, rxpay, _, _, _, _,
    _⟩ b sh low m cs
  have hsh : shiftIn shift b = sh := rfl
  have hlow : sh.extractLsb' 0 16 = low := rfl
  dsimp only
  refine ⟨?_, ?_, ?_, ?_, ?_, ?_, ?_, ?_, ?_, ?_, ?_, ?_, ?_, ?_, ?_, ?_, ?_, ?_⟩
  · rintro rfl rfl; rfl
  · rintro rfl hi h; simp only [rxStep, rxNext, if_neg hi, hsh, hlow, if_neg (not_not.2 h)]; rfl
  · rintro rfl hi h; simp only [rxStep, rxNext, if_neg hi, hsh, hlow, if_pos h]; rfl
  · rintro rfl hi; simp only [rxStep, rxNext, if_pos hi]; rfl
  · rintro rfl rfl h; simp only [rxStep, rxNext, hsh, if_neg (not_not.2 h)]; rfl
  · rintro rfl rfl h; simp only [rxStep, rxNext, hsh, if_pos h]; rfl
  · rintro rfl h; simp only [rxStep, rxNext, rxCovered, if_neg (not_not.2 h), beq_iff_eq.2 h]; rfl
  · rintro rfl h; simp only [rxStep, rxNext, rxCovered, if_pos h, beq_false_of_ne h]; rfl
  · rintro rfl rfl; rfl
  · rintro rfl hi h; simp only [rxStep, rxNext, if_neg hi, hsh, hlow, if_pos h]; rfl
  · rintro rfl hi h
    have h0 : ¬ low.toNat < 2 := by rw [h]; decide
    simp only [rxStep, rxNext, if_neg hi, hsh, hlow, if_neg h0, if_pos h]
    rfl
  · rintro rfl hi h
    have h0 : ¬ low.toNat < 2 := by omega
    have h2 : low ≠ 2 := fun e => absurd h (by rw [e]; decide)
    simp only [rxStep, rxNext, if_neg hi, hsh, hlow, if_neg h0, if_neg h2]
    rfl
  · rintro rfl h; simp only [rxStep, rxNext, if_pos h]; rfl
  · rintro rfl h; simp only [rxStep, rxNext, if_neg h]; rfl
  · rintro rfl rfl; rfl
  · rintro rfl hi h; simp only [rxStep, rxNext, if_neg hi, hsh, hlow, if_neg (not_not.2 h)]; rfl
  · rintro rfl hi h; simp only [rxStep, rxNext, if_neg hi, hsh, hlow, if_pos h]; rfl
  · rintro (rfl | rfl) <;> rfl

/-! ### The two levels of the codec -/

/-- A step appends at most one byte to FRAME, and none only in T_IDLE. -/
theorem txStep_frame (s : State) :
    (s.tx.txph = .idle ∧ txStep s = s) ∨ ∃ b, (txStep s).frame = s.frame ++ [b] := by
  by_cases h : s.tx.txph = .idle
  · exact .inl ⟨h, if_pos h⟩
  · exact .inr ⟨txByte s, by rw [txStep_of_busy h]⟩

theorem txRun_idle {s : State} (h : s.tx.txph = .idle) (k : Nat) : txRun k s = s := by
  induction k with
  | zero => rfl
  | succ k ih => rw [txRun, txStep, if_pos h, ih]

/-- `k` steps append at most `k` bytes to FRAME. -/
theorem txRun_frame (k : Nat) :
    ∀ s : State, ∃ emitted, (txRun k s).frame = s.frame ++ emitted ∧ emitted.length ≤ k := by
  induction k with
  | zero => intro s; exact ⟨[], by simp [txRun], le_rfl⟩
  | succ k ih =>
    intro s
    obtain ⟨emitted, hframe, hlen⟩ := ih (txStep s)
    rw [txRun, hframe]
    rcases txStep_frame s with ⟨_, hs⟩ | ⟨b, hb⟩
    · exact ⟨emitted, by rw [hs], by omega⟩
    · exact ⟨b :: emitted, by rw [hb, List.append_assoc, List.singleton_append], by simpa using hlen⟩

theorem txRun_encode (a : Word32) (t : Byte) {p : Bytes} (s : State) (hp : p.length ≤ maxPayload) :
    (txRun (p.length + 11) (txStart a t p s)).frame = wireFrame a t p ∧
      (txRun (p.length + 11) (txStart a t p s)).tx.txph = .idle := by
  have h := encodeFrame_eq a t p s hp
  rw [encodeFrame, frameOverhead] at h
  rw [h]
  exact ⟨rfl, rfl⟩

/-- R108: of the `n + 11` steps each emits a byte, since they emit the `n + 11` bytes of the frame. -/
theorem txRun_take (a : Word32) (t : Byte) {p : Bytes} (s : State) {k : Nat} (hp : p.length ≤ maxPayload)
    (hk : k ≤ p.length + 11) : (txRun k (txStart a t p s)).frame = (wireFrame a t p).take k := by
  obtain ⟨j, hj⟩ := Nat.exists_eq_add_of_le hk
  obtain ⟨done, hdone, hdoneLen⟩ := txRun_frame k (txStart a t p s)
  obtain ⟨rest, hrest, hrestLen⟩ := txRun_frame j (txRun k (txStart a t p s))
  have hwhole : wireFrame a t p = done ++ rest := by
    rw [← txRun_add, ← hj, (txRun_encode a t s hp).1] at hrest
    rw [hrest, hdone]
    rfl
  have hlen : (wireFrame a t p).length = p.length + 11 := wireFrame_length a t p
  rw [hwhole, List.length_append] at hlen
  have hcount : done.length = k := by omega
  rw [hdone, hwhole, ← hcount, List.take_left]
  rfl

theorem txRun_idle_iff (a : Word32) (t : Byte) {p : Bytes} (s : State) {k : Nat} (hp : p.length ≤ maxPayload)
    (hk : k ≤ p.length + 11) : (txRun k (txStart a t p s)).tx.txph = .idle ↔ k = p.length + 11 := by
  refine ⟨fun h => ?_, fun h => h ▸ (txRun_encode a t s hp).2⟩
  obtain ⟨j, hj⟩ := Nat.exists_eq_add_of_le hk
  have hframe := txRun_take a t s hp hk
  have hwhole := (txRun_encode a t s hp).1
  rw [hj, txRun_add, txRun_idle h, hframe] at hwhole
  have hlen := congrArg List.length hwhole
  rw [List.length_take, wireFrame_length, frameOverhead] at hlen
  omega

theorem rxFeed_append (x y : Bytes) : ∀ s : State, rxFeed (x ++ y) s = rxFeed y (rxFeed x s) := by
  induction x with
  | nil => intro s; rfl
  | cons b x ih => intro s; exact ih (rxStep b s)

/-- R108, from any state: RAW has no part in the outcome. -/
theorem rxOutcome_rxFeed (raw : Bytes) (ea : Word32) (et : Byte) (s : State) :
    rxOutcome (rxFeed raw (rxStart ea et s)) = validate raw ea et := by
  obtain ⟨hrx, _, hpay⟩ := rxFeed_congr raw (rxStart ea et s) (rxStart ea et { s with raw := raw }) rfl rfl rfl
  rw [← decodeOutcome_eq raw ea et s, decodeOutcome, rxRead, rxOutcome, rxOutcome, hrx, hpay]

/-- Settles O16: each of the steps emits one byte of the frame, and the receive machine reports what the bytes validate
to, in however many parts they come. -/
theorem byteSerialLevelAgrees : Obligations.ByteSerialLevelAgrees := by
  unfold Obligations.ByteSerialLevelAgrees
  refine ⟨fun a t p s k hp hk => ⟨txRun_take a t s hp hk, txRun_idle_iff a t s hp hk⟩, fun x y ea et s => ?_⟩
  rw [← rxFeed_append, rxOutcome_rxFeed]

/-! ### ENCODE -/

theorem exec_refused {i : Instr} (hi : isRequest i = true) {s : State} {r : RefuseReason}
    (h : refusalOf s.busy s.opened s.sq.seq i = some r) : exec i s = .next (refuse r s) := by
  rw [exec_request i hi, runOperation_refused _ _ _ _ h]

theorem badType_true_iff (c : Byte) : badType c = true ↔ c ∉ [0x01, 0x02, 0x07, 0x08] := by
  rw [← badType_false_iff, Bool.not_eq_false]

theorem accepted_encode {s : State} (hidle : isIdle s = true) (a : Word32) {t : Byte} {p : Bytes}
    (ht : badType t = false) (hp : p.length ≤ maxPayload) :
    refusalOf s.busy s.opened s.sq.seq (.encode a t p) = none := by
  obtain ⟨hb, _⟩ := (isIdle_iff s).1 hidle
  simp [refusalOf, firstRefusal_eq_none_iff, hb, ht, (badLength_false_iff p).2 hp]

/-- R100. -/
theorem exec_accepted_encode {s : State} (hidle : isIdle s = true) (a : Word32) {t : Byte} {p : Bytes}
    (ht : badType t = false) (hp : p.length ≤ maxPayload) :
    exec (.encode a t p) s = .next (succeed (.bytes (wireFrame a t p)) (encodeFrame a t p (accept s))) := by
  rw [exec_accepted rfl (accepted_encode hidle a ht hp), bodyOf, encodeBody, conclude]
  rw [encodeFrame_eq _ _ _ _ hp]

/-- Settles O9: the first refusal of R224, or the transmit machine's own equation between acceptance and success. -/
theorem encodeOperation : Obligations.EncodeOperation := by
  unfold Obligations.EncodeOperation
  intro s a t p hidle
  obtain ⟨hb, _⟩ := (isIdle_iff s).1 hidle
  refine ⟨fun ht => ?_, fun ht hp => ?_, fun ht hp => ?_⟩
  · have href : refusalOf s.busy s.opened s.sq.seq (.encode a t p) = some .badType := by
      simp [refusalOf, hb, firstRefusal, (badType_true_iff t).2 ht]
    exact exec_refused rfl href
  · have hlen : badLength p = true := decide_eq_true hp
    have href : refusalOf s.busy s.opened s.sq.seq (.encode a t p) = some .badLength := by
      simp [refusalOf, hb, firstRefusal, (badType_false_iff t).2 ht, hlen]
    exact exec_refused rfl href
  · obtain ⟨_, hrx, hsq⟩ := idleMachines_of_isIdle hidle
    rw [exec_accepted_encode hidle a ((badType_false_iff t).2 ht) hp, encodeFrame_eq _ _ _ _ hp]
    simp only [succeed, idleMachines, accept, hrx, hsq, hb]
    rfl

/-! ### DECODE -/

/-- The result that DECODE delivers for what R101 says of its operand. -/
def decodeResult : Except ErrorKind Bytes → OpResult
  | .ok p => .ok (.bytes p)
  | .error k => .error k

/-- What RXPAY holds at the end of a read: nothing on an error (R125). -/
def keptPayload : Except ErrorKind Bytes → Bytes
  | .ok p => p
  | .error _ => []

theorem decodeBuffer_rxpay (raw : Bytes) (ea : Word32) (et : Byte) (s : State) :
    (decodeBuffer raw ea et s).rxpay = keptPayload (validate raw ea et) := by
  rw [decodeBuffer_eq]
  cases validate raw ea et <;> rfl

/-- R101: an accepted DECODE. -/
theorem exec_accepted_decode {s : State} (hidle : isIdle s = true) (raw : Bytes) (ea : Word32) {et : Byte}
    (ht : badType et = false) :
    exec (.decode raw ea et) s =
      .next (conclude (bytesResult (validate raw ea et)) (decodeBuffer raw ea et (accept s))) := by
  obtain ⟨hb, _⟩ := (isIdle_iff s).1 hidle
  rw [exec_accepted rfl (by simp [refusalOf, firstRefusal_eq_none_iff, hb, ht]), bodyOf, decodeBody,
    decodeOutcome_eq]

/-- R101, R125: what DECODE delivers and leaves in RAW and RXPAY is what its operand validates to. -/
theorem exec_decode_next {s : State} (hidle : isIdle s = true) (raw : Bytes) (ea : Word32) {et : Byte}
    (ht : badType et = false) :
    ∃ t, exec (.decode raw ea et) s = .next t ∧ t.raw = raw ∧ t.result = some (decodeResult (validate raw ea et)) ∧
      t.rxpay = keptPayload (validate raw ea et) := by
  refine ⟨_, exec_accepted_decode hidle raw ea ht, ?_⟩
  rw [← decodeBuffer_rxpay raw ea et (accept s)]
  cases validate raw ea et <;> exact ⟨by rw [conclude_raw, decodeBuffer_eq], rfl, rfl⟩

theorem endsWith_decode {s : State} (hidle : isIdle s = true) {raw : Bytes} {ea : Word32} {et : Byte}
    (ht : badType et = false) {v : Except ErrorKind Bytes} (h : validate raw ea et = v) :
    EndsWith (exec (.decode raw ea et) s) (decodeResult v) := by
  obtain ⟨t, he, _, hresult, _⟩ := exec_decode_next hidle raw ea ht
  exact ⟨t, he, by rw [hresult, h]⟩

/-- Settles O14: ENCODE leaves an idle block and a frame of R100, which validates under its own address and type. -/
theorem encodeThenDecodeReturnsPayload : Obligations.EncodeThenDecodeReturnsPayload := by
  unfold Obligations.EncodeThenDecodeReturnsPayload
  intro s a t p hidle hp
  refine ⟨_, _, exec_accepted_encode hidle a (badType_code t) hp, rfl, ?_⟩
  have hvalid := validate_wireFrame a t.code p [] hp
  rw [List.append_nil] at hvalid
  exact endsWith_decode (isIdle_conclude (.ok _) _) (badType_code t) hvalid

/-! ### The checks of DECODE in their order -/

theorem validate_singleton (b : Byte) (ea : Word32) (et : Byte) : validate [b] ea et = .error .headerMismatch := rfl

/-- R101 step 3. -/
theorem validate_start {b0 b1 : Byte} (tail : Bytes) (ea : Word32) (et : Byte) (h : ¬ (b0 = 0xEF ∧ b1 = 0x01)) :
    validate (b0 :: b1 :: tail) ea et = .error .headerMismatch := by
  rw [← rxOutcome_rxFeed _ ea et State.reset, rxOutcome_sc _ _ _ _ rfl rfl, if_neg h]

/-- R101 step 4. -/
theorem validate_address_cut {tail : Bytes} (ea : Word32) (et : Byte) (h : tail.length < 4) :
    validate (0xEF :: 0x01 :: tail) ea et = .error .headerMismatch := by
  simp [validate, memReadByte, show tail.length + 1 + 1 < 6 by omega]

/-- R101 step 5, with the address whole. -/
theorem validate_address {a ea : Word32} (tail : Bytes) (et : Byte) (h : a ≠ ea) :
    validate ([0xEF, 0x01] ++ be32 a ++ tail) ea et = .error .addressMismatch := by
  simp [validate, memReadByte, be32, fromBe32_be32, h]

/-- R101 step 6 on a buffer that ends before the type. -/
theorem validate_type_cut (ea : Word32) (et : Byte) :
    validate ([0xEF, 0x01] ++ be32 ea) ea et = .error .headerMismatch := by
  simp [validate, memReadByte, be32, fromBe32_be32]

/-- R101 step 6. -/
theorem validate_type {t et : Byte} (ea : Word32) (tail : Bytes) (h : t ≠ et) :
    validate ([0xEF, 0x01] ++ be32 ea ++ t :: tail) ea et = .error .typeMismatch := by
  simp +arith [validate, memReadByte, be32, fromBe32_be32, h]

/-- R101 step 7. -/
theorem validate_length_cut (ea : Word32) (et : Byte) {tail : Bytes} (h : tail.length < 2) :
    validate ([0xEF, 0x01] ++ be32 ea ++ et :: tail) ea et = .error .headerMismatch := by
  simp [validate, memReadByte, be32, fromBe32_be32, h]

/-- R101 steps 8 and 9. -/
theorem validate_length (a : Word32) (t : Byte) {len : Word16} {tail : Bytes}
    (h : len.toNat < 2 ∨ tail.length < len.toNat) :
    validate (frameHeader a t len ++ tail) a t = .error .headerMismatch := by
  rw [validate_header, if_neg (by simp), if_neg (by simp)]
  by_cases h2 : len.toNat < 2
  · rw [if_pos h2]
  · rw [if_neg h2, validateRest, if_pos (h.resolve_left h2)]

/-- R101 steps 10 and 11, under the frame's own address and type. -/
theorem validate_checksum (a : Word32) (t : Byte) {p : Bytes} (ck : Word16) (more : Bytes)
    (hp : p.length ≤ maxPayload) :
    validate (frameHeader a t (lenField p) ++ p ++ be16 ck ++ more) a t =
      if ck ≠ checksumOf t p then .error .checksumMismatch else .ok p := by
  have h := validate_frame a a t t p ck more hp
  rw [if_neg (by simp), if_neg (by simp)] at h
  rw [← h]
  simp only [List.append_assoc]

/-- Settles O10: DECODE delivers what its operand validates to, and each check of R101 decides on the buffers that reach
it. -/
theorem decodeOperationByFirstFailure : Obligations.DecodeOperationByFirstFailure := by
  unfold Obligations.DecodeOperationByFirstFailure
  intro s ea et hidle
  refine ⟨fun raw ht => ?_, fun ht => ?_⟩
  · obtain ⟨hb, _⟩ := (isIdle_iff s).1 hidle
    have href : refusalOf s.busy s.opened s.sq.seq (.decode raw ea et) = some .badType := by
      simp [refusalOf, hb, firstRefusal, (badType_true_iff et).2 ht]
    exact exec_refused rfl href
  · have ends {raw : Bytes} {v : Except ErrorKind Bytes} (h : validate raw ea et = v) :
        EndsWith (exec (.decode raw ea et) s) (decodeResult v) := endsWith_decode hidle ((badType_false_iff et).2 ht) h
    refine ⟨fun raw => ?_, ?_, ?_, ?_, ?_, ?_, ?_, ?_, ?_, ?_, ?_, ?_⟩
    · obtain ⟨t, he, hraw, hresult, hpay⟩ := exec_decode_next hidle raw ea ((badType_false_iff et).2 ht)
      refine ⟨t, he, hraw, ?_⟩
      cases hv : validate raw ea et with
      | ok p => exact .inl ⟨p, by rw [hresult, hv]; rfl, by rw [hpay, hv]; rfl⟩
      | error k => exact .inr ⟨k, by rw [hresult, hv]; rfl, by rw [hpay, hv]; rfl⟩
    · exact ends (v := .error .emptyRead) rfl
    · exact fun b => ends (validate_singleton b ea et)
    · exact fun b0 b1 tail h => ends (validate_start tail ea et h)
    · exact fun tail h => ends (validate_address_cut ea et h)
    · exact fun a tail h => ends (validate_address tail et h)
    · exact ends (validate_type_cut ea et)
    · exact fun t tail h => ends (validate_type ea tail h)
    · exact fun tail h => ends (validate_length_cut ea et h)
    · exact fun len tail h => ends (validate_length ea et h)
    · exact fun p ck more hp h => ends ((validate_checksum ea et ck more hp).trans (if_pos h))
    · exact fun p more hp => ends ((validate_checksum ea et _ more hp).trans (if_neg (not_not.2 rfl)))

/-! ### Corrupted frames -/

theorem lenField_congr {p q : Bytes} (h : p.length = q.length) : lenField p = lenField q := by
  rw [lenField, h, lenField]

/-- The sum with one byte changed, without subtraction. -/
theorem byteSum_set (p : Bytes) (k : Nat) (b c : Byte) (h : p[k]? = some b) :
    byteSum (p.set k c) + b.toNat = byteSum p + c.toNat := by
  induction p generalizing k with
  | nil => simp at h
  | cons x p ih =>
    cases k with
    | zero =>
      cases h
      simp only [byteSum, List.set_cons_zero, List.map_cons, List.sum_cons]
      omega
    | succ k =>
      have := ih k h
      simp only [byteSum, List.set_cons_succ, List.map_cons, List.sum_cons] at this ⊢
      omega

/-- R145 on the payload. -/
theorem checksumOf_set_ne (t : Byte) {p : Bytes} {k : Nat} {b c : Byte} (h : p[k]? = some b) (hc : c ≠ b) :
    checksumOf t (p.set k c) ≠ checksumOf t p := by
  have hsum := byteSum_set p k b c h
  have hne : c.toNat ≠ b.toNat := mt BitVec.eq_of_toNat_eq hc
  have := b.isLt
  have := c.isLt
  rw [checksumOf, checksumOf, lenField_congr (List.length_set ..), ne_eq, ← BitVec.toNat_inj, BitVec.toNat_ofNat,
    BitVec.toNat_ofNat]
  omega

theorem be16_inj {v w : Word16} : be16 v = be16 w ↔ v = w := by
  refine ⟨fun h => ?_, fun h => h ▸ rfl⟩
  simp only [be16, List.cons.injEq, and_true] at h
  obtain ⟨hhigh, hlow⟩ := h
  rw [← fromBe16_be16 v, hhigh, hlow, fromBe16_be16]

/-- The two bytes that R101 step 10 compares with the sum. -/
theorem be16_memReadByte {rest : Bytes} {n : Nat} (h : n + 2 ≤ rest.length) :
    be16 (fromBe16 (memReadByte rest n) (memReadByte rest (n + 1))) = (rest.drop n).take 2 := by
  have h0 : n < rest.length := by omega
  have h1 : n + 1 < rest.length := by omega
  rw [be16_fromBe16, List.drop_eq_getElem_cons h0, List.drop_eq_getElem_cons h1]
  simp only [memReadByte, List.getElem?_eq_getElem h0, List.getElem?_eq_getElem h1]
  rfl

/-- R101 steps 9 to 11 with a length field that stays inside the buffer. -/
theorem validateRest_inside (t : Byte) {len : Nat} {rest : Bytes} (h2 : 2 ≤ len) (h : len ≤ rest.length) :
    validateRest t len rest =
      if (rest.drop (len - 2)).take 2 = be16 (checksumOf t (rest.take (len - 2))) then .ok (rest.take (len - 2))
      else .error .checksumMismatch := by
  obtain ⟨n, rfl⟩ := Nat.exists_eq_add_of_le' h2
  rw [validateRest, if_neg (by omega), Nat.add_sub_cancel, show n + 2 - 1 = n + 1 from rfl, ite_not,
    ← be16_memReadByte h, if_congr be16_inj rfl rfl]

/-- Settles O15: a changed field fails the check of R101 that reads it; a smaller length field moves the place of the
checksum. -/
theorem corruptedFramesAreDetected : Obligations.CorruptedFramesAreDetected := by
  unfold Obligations.CorruptedFramesAreDetected
  intro s a t p hidle hp dec tail
  have ends {raw : Bytes} {v : Except ErrorKind Bytes} (h : validate raw a t.code = v) :
      EndsWith (dec raw) (decodeResult v) := endsWith_decode hidle (badType_code t) h
  have checked (q : Bytes) (hq : q.length = p.length) (ck : Word16) :
      validate (frameHeader a t.code (lenField p) ++ q ++ be16 ck) a t.code =
        if ck ≠ checksumOf t.code q then .error .checksumMismatch else .ok q := by
    have h := validate_checksum a t.code (p := q) ck [] (hq ▸ hp)
    rwa [List.append_nil, lenField_congr hq] at h
  have htail : tail.length = (lenField p).toNat := by
    rw [lenField_toNat p hp, List.length_append, be16_length]
  refine ⟨fun b0 b1 h => ?_, fun a' h => ?_, fun c h => ?_, fun k b c hk h => ?_, fun ck h => ?_, fun len h => ?_,
    fun len h2 h => ?_, fun q hq h => ?_⟩
  · exact ends (validate_start (be32 a ++ [t.code] ++ be16 (lenField p) ++ tail) a t.code h)
  · exact ends (validate_address ([t.code] ++ be16 (lenField p) ++ tail) t.code h)
  · exact ends (validate_type a (be16 (lenField p) ++ tail) h)
  · exact ends ((checked _ (List.length_set ..) _).trans (if_pos (checksumOf_set_ne _ hk h).symm))
  · exact ends ((checked p rfl ck).trans (if_pos h))
  · exact ends (validate_length a t.code (htail ▸ h))
  · intro q
    have hvalid : validate (frameHeader a t.code len ++ tail) a t.code = validateRest t.code len.toNat tail := by
      rw [validate_header, if_neg (by simp), if_neg (by simp), if_neg (by omega)]
    rw [validateRest_inside t.code h2 (by omega)] at hvalid
    have hends := ends hvalid
    rw [apply_ite decodeResult] at hends
    exact hends
  · exact ends ((checked q hq _).trans (if_neg (not_not.2 h.symm)))

/-! ### The codec operations depend on their operands alone -/

/-- Two states in which a request meets the same refusal, or runs a body with the same result, deliver the same. -/
theorem result_eq_of_body_eq {i : Instr} (hi : isRequest i = true) {s u t v : State}
    (href : refusalOf s.busy s.opened s.sq.seq i = refusalOf u.busy u.opened u.sq.seq i)
    (hbody : refusalOf s.busy s.opened s.sq.seq i = none → (bodyOf i (accept s)).2 = (bodyOf i (accept u)).2)
    (hs : exec i s = .next t) (hu : exec i u = .next v) : t.result = v.result := by
  cases hr : refusalOf s.busy s.opened s.sq.seq i with
  | some r =>
    cases (exec_refused hi hr).symm.trans hs
    cases (exec_refused hi (href.symm.trans hr)).symm.trans hu
    rfl
  | none =>
    obtain ⟨r, hbody_s⟩ := body_ends i hi (accept s) _ _ _ hr
    cases (exec_accepted hi hr).symm.trans hs
    cases (exec_accepted hi (href.symm.trans hr)).symm.trans hu
    rw [← hbody hr, hbody_s, conclude_result, conclude_result]

/-- What the body of a request keeps of the channel, the request keeps. -/
theorem exec_request_chan {i : Instr} (hi : isRequest i = true) {s t : State} (he : exec i s = .next t)
    (hbody : (bodyOf i (accept s)).1.chan = s.chan) : t.chan = s.chan := by
  rcases exec_request_cases i hi s t he with ⟨r, _, rfl⟩ | ⟨_, ⟨v, _, rfl⟩ | ⟨k, _, _, rfl⟩⟩
  · rfl
  · exact hbody
  · exact hbody

/-- CHECKSUM, ENCODE and DECODE (R100, R101, R140). -/
def IsCodecOperation (i : Instr) : Prop :=
  (∃ ty p, i = .checksum ty p) ∨ (∃ a ty p, i = .encode a ty p) ∨ (∃ raw ea et, i = .decode raw ea et)

section Codec

variable {i : Instr} (hi : IsCodecOperation i)
include hi

theorem isRequest_codec : isRequest i = true := by
  rcases hi with ⟨ty, p, rfl⟩ | ⟨a, ty, p, rfl⟩ | ⟨raw, ea, et, rfl⟩ <;> rfl

/-- R144: a codec operation needs no session and no idle sequencer. -/
theorem refusalOf_codec (busy : Bool) (opened opened' : Bool) (seq seq' : SeqPhase) :
    refusalOf busy opened seq i = refusalOf busy opened' seq' i := by
  rcases hi with ⟨ty, p, rfl⟩ | ⟨a, ty, p, rfl⟩ | ⟨raw, ea, et, rfl⟩ <;> rfl

/-- R144, R242. -/
theorem bodyOf_codec_result (hfit : operandsFit i) (s u : State) : (bodyOf i s).2 = (bodyOf i u).2 := by
  rcases hi with ⟨ty, p, rfl⟩ | ⟨a, ty, p, rfl⟩ | ⟨raw, ea, et, rfl⟩
  · simp only [bodyOf, checksumBody, accumulate_eq]
  · have hp : p.length ≤ maxPayload := hfit
    simp only [bodyOf, encodeBody, encodeFrame_eq a ty p _ hp]
  · simp only [bodyOf, decodeBody, decodeOutcome_eq]

theorem bodyOf_codec_chan (s : State) : (bodyOf i s).1.chan = s.chan := by
  rcases hi with ⟨ty, p, rfl⟩ | ⟨a, ty, p, rfl⟩ | ⟨raw, ea, et, rfl⟩
  · simp only [bodyOf, checksumBody, accumulate_eq]
  · obtain ⟨_, _, _, _, _, hchan⟩ := encodeFrame_frame a ty p s
    exact hchan
  · simp only [bodyOf, decodeBody, decodeBuffer_eq]

theorem exec_codec_session {s t : State} (he : exec i s = .next t) :
    t.addr = s.addr ∧ t.timeout = s.timeout ∧ t.opened = s.opened := by
  refine exec_keeps_session he ?_ ?_ <;>
    rcases hi with ⟨ty, p, rfl⟩ | ⟨a, ty, p, rfl⟩ | ⟨raw, ea, et, rfl⟩ <;> simp

end Codec

/-- Settles O51: neither the refusal nor the body's result depends on the state. -/
theorem codecOperationsArePure : Obligations.CodecOperationsArePure := by
  unfold Obligations.CodecOperationsArePure
  intro s u t v i hs hu hcodec het heu
  have hi := isRequest_codec hcodec
  refine ⟨result_eq_of_body_eq hi ?_ ?_ het heu, exec_request_chan hi het (bodyOf_codec_chan hcodec _),
    exec_codec_session hcodec het⟩
  · rw [hs, hu]
    exact refusalOf_codec hcodec _ _ _ _ _
  · exact fun ha => bodyOf_codec_result hcodec (operandsFit_of_accepted ha) _ _

/-! ### A payload that failed validation -/

/-- The errors that say that a frame has been read and is not what was expected (R101, R186). -/
def validationErrors : List ErrorKind :=
  [.emptyRead, .headerMismatch, .addressMismatch, .typeMismatch, .checksumMismatch, .shortTransfer]

/-- R156: RXPAY holds the payload that a receive reports. -/
theorem receiveFrame_rxpay_of_ok {et : Byte} {m : Nat} {s : State} {p : Bytes} (h : receiveOutcome et m s = .ok p) :
    (receiveFrame et m s).rxpay = p := by
  rw [receiveOutcome_eq] at h
  unfold receiveFrame
  cases hread : readAnswer m s.chan with
  | none => rw [hread] at h; cases h
  | some bs =>
    rw [hread] at h
    exact (decodeBuffer_rxpay ..).trans (congrArg keptPayload h)

/-- R125, R156: a receive that has read a frame and fails leaves RXPAY empty. -/
theorem receiveFrame_rxpay_of_error {et : Byte} {m : Nat} {s : State} {k : ErrorKind}
    (h : receiveOutcome et m s = .error k) (hk : k ∈ validationErrors) : (receiveFrame et m s).rxpay = [] := by
  rw [receiveOutcome_eq] at h
  unfold receiveFrame
  cases hread : readAnswer m s.chan with
  | none => rw [hread] at h; cases h; exact absurd hk (by decide)
  | some bs =>
    rw [hread] at h
    exact (decodeBuffer_rxpay ..).trans (congrArg keptPayload h)

theorem bytesResult_eq_error {x : Except ErrorKind Bytes} {k : ErrorKind} (h : bytesResult x = some (.error k)) :
    x = .error k := by
  cases x <;> cases h
  rfl

theorem transferExchange_rxpay {p : Bytes} {e : Nat} {s : State} {k : ErrorKind}
    (h : (transferExchange p e s).2 = some (.error k)) (hk : k ∈ validationErrors) :
    (transferExchange p e s).1.rxpay = [] := by
  unfold transferExchange at h ⊢
  cases hsend : sendOutcome PacketType.command.code p s with
  | error j =>
    rw [hsend] at h
    cases h
    exact absurd (sendOutcome_errors _ _ _ _ hsend ▸ hk) (by decide)
  | ok _ =>
    rw [hsend] at h
    exact receiveFrame_rxpay_of_error (bytesResult_eq_error h) hk

theorem dlStep_rxpay (s : State) : (dlStep s).1.rxpay =
    (receiveFrame (bulkType s.sq) (s.sq.pktsz.toNat + frameOverhead) s).rxpay := by
  unfold dlStep
  dsimp only
  split
  · rfl
  · split
    · rfl
    · split <;> rfl

/-- R186: a step that fails has read a frame that fails validation, or an empty payload. -/
theorem dlStep_rxpay_of_error {s : State} {k : ErrorKind} (h : (dlStep s).2 = some (.error k))
    (hk : k ∈ validationErrors) : (dlStep s).1.rxpay = [] := by
  rw [dlStep_rxpay]
  cases hout : dlOutcome s with
  | error j =>
    cases (dlStep_of_error hout).symm.trans h
    exact receiveFrame_rxpay_of_error hout hk
  | ok p =>
    cases hlast : isLast s.sq with
    | true => cases (dlStep_of_last hout hlast).symm.trans h
    | false =>
      by_cases hp : p = []
      · exact (receiveFrame_rxpay_of_ok hout).trans hp
      · rw [dlStep_of_payload hout hlast hp] at h
        cases h

theorem dlRun_rxpay_of_error {k : ErrorKind} (hk : k ∈ validationErrors) (fuel : Nat) : ∀ {s : State},
    (dlRun fuel s).2 = some (.error k) → (dlRun fuel s).1.rxpay = [] := by
  induction fuel with
  | zero => intro s h; cases h
  | succ fuel ih =>
    intro s h
    cases hstep : (dlStep s).2 with
    | some r =>
      rw [dlRun_of_some hstep] at h ⊢
      exact dlStep_rxpay_of_error h hk
    | none =>
      rw [dlRun_of_none hstep] at h ⊢
      exact ih h

/-- R125, R181, R217: whichever operation reads the frame. -/
theorem bodyOf_rxpay_of_error {i : Instr} {s : State} {k : ErrorKind} (h : (bodyOf i s).2 = some (.error k))
    (hk : k ∈ validationErrors) : (bodyOf i s).1.rxpay = [] := by
  have hraise := body_errors i s k h
  cases i with
  | decode raw ea et =>
    have hvalid := bytesResult_eq_error h
    rw [decodeOutcome_eq] at hvalid
    exact (decodeBuffer_rxpay raw ea et s).trans (congrArg keptPayload hvalid)
  | receive et m => exact receiveFrame_rxpay_of_error (bytesResult_eq_error h) hk
  | transfer p e => exact transferExchange_rxpay h hk
  | download n size => exact dlRun_rxpay_of_error hk n h
  | openChannel | sendCommand | upload =>
    rw [canRaise, List.mem_singleton] at hraise
    exact absurd (hraise ▸ hk) (by decide)
  | _ => cases hraise

/-- Settles O54: the error is the body's, and every body that reads a frame has emptied RXPAY with it. -/
theorem failedValidationDiscardsThePayload : Obligations.FailedValidationDiscardsThePayload := by
  unfold Obligations.FailedValidationDiscardsThePayload
  intro s t i k hi ha he hresult hk
  rcases exec_request_cases i hi s t he with ⟨r, hr, _⟩ | ⟨_, ⟨v, _, rfl⟩ | ⟨j, hj, _, rfl⟩⟩
  · cases ha.symm.trans hr
  · cases hresult
  · cases hresult
    exact bodyOf_rxpay_of_error hj hk

/-! ### The registers that each operation leaves alone -/

/-- The transmit side (R110 to R116). -/
def KeepsTransmitSide (s t : State) : Prop := t.tx = s.tx ∧ t.txpay = s.txpay ∧ t.frame = s.frame

/-- The receive side (R117 to R125). -/
def KeepsReceiveSide (s t : State) : Prop := t.rx = s.rx ∧ t.raw = s.raw ∧ t.rxpay = s.rxpay

/-- The sequencer and its buffer (R184 to R189). -/
def KeepsBulkSide (s t : State) : Prop := t.sq = s.sq ∧ t.bulk = s.bulk

theorem KeepsTransmitSide.trans {s t u : State} :
    KeepsTransmitSide s t → KeepsTransmitSide t u → KeepsTransmitSide s u :=
  fun ⟨htx, hpay, hframe⟩ ⟨htx', hpay', hframe'⟩ => ⟨htx'.trans htx, hpay'.trans hpay, hframe'.trans hframe⟩

theorem KeepsReceiveSide.trans {s t u : State} :
    KeepsReceiveSide s t → KeepsReceiveSide t u → KeepsReceiveSide s u :=
  fun ⟨hrx, hraw, hpay⟩ ⟨hrx', hraw', hpay'⟩ => ⟨hrx'.trans hrx, hraw'.trans hraw, hpay'.trans hpay⟩

theorem KeepsBulkSide.trans {s t u : State} : KeepsBulkSide s t → KeepsBulkSide t u → KeepsBulkSide s u :=
  fun ⟨hsq, hbulk⟩ ⟨hsq', hbulk'⟩ => ⟨hsq'.trans hsq, hbulk'.trans hbulk⟩

/-- A frame that is sent touches the transmit side alone. -/
theorem sendFrame_keepsReceiveSide (t : Byte) (p : Bytes) (s : State) : KeepsReceiveSide s (sendFrame t p s) := by
  obtain ⟨hrx, _, _, hraw, hpay, _⟩ := encodeFrame_frame s.addr t p s
  exact ⟨hrx, hraw, hpay⟩

theorem sendFrame_keepsBulkSide (t : Byte) (p : Bytes) (s : State) : KeepsBulkSide s (sendFrame t p s) := by
  obtain ⟨_, hsq, hbulk, _⟩ := encodeFrame_frame s.addr t p s
  exact ⟨hsq, hbulk⟩

/-- A buffer that is decoded touches the receive side alone, and so does a frame that is received. -/
theorem decodeBuffer_keepsTransmitSide (raw : Bytes) (ea : Word32) (et : Byte) (s : State) :
    KeepsTransmitSide s (decodeBuffer raw ea et s) := by
  rw [decodeBuffer_eq]
  exact ⟨rfl, rfl, rfl⟩

theorem decodeBuffer_keepsBulkSide (raw : Bytes) (ea : Word32) (et : Byte) (s : State) :
    KeepsBulkSide s (decodeBuffer raw ea et s) := by
  rw [decodeBuffer_eq]
  exact ⟨rfl, rfl⟩

theorem receiveFrame_keepsTransmitSide (et : Byte) (m : Nat) (s : State) :
    KeepsTransmitSide s (receiveFrame et m s) := by
  rw [receiveFrame_eq]
  exact ⟨rfl, rfl, rfl⟩

theorem receiveFrame_keepsBulkSide (et : Byte) (m : Nat) (s : State) : KeepsBulkSide s (receiveFrame et m s) :=
  ⟨receiveFrame_sq et m s, receiveFrame_bulk et m s⟩

theorem transferExchange_keepsBulkSide (p : Bytes) (e : Nat) (s : State) :
    KeepsBulkSide s (transferExchange p e s).1 := by
  have hsend := sendFrame_keepsBulkSide PacketType.command.code p s
  unfold transferExchange
  split
  · exact hsend
  · exact hsend.trans (receiveFrame_keepsBulkSide _ _ _)

theorem dlStep_keepsTransmitSide (s : State) : KeepsTransmitSide s (dlStep s).1 := by
  have hrecv := receiveFrame_keepsTransmitSide (bulkType s.sq) (s.sq.pktsz.toNat + frameOverhead) s
  unfold dlStep
  dsimp only
  split
  · exact hrecv
  · split
    · exact hrecv
    · split <;> exact hrecv

theorem ulStep_keepsReceiveSide (s : State) : KeepsReceiveSide s (ulStep s).1 := by
  have hsend := sendFrame_keepsReceiveSide (bulkType s.sq) (ulChunk s) s
  unfold ulStep
  dsimp only
  generalize sendFrame (bulkType s.sq) (ulChunk s) s = t at hsend ⊢
  split
  · exact hsend
  · split <;> exact hsend

/-- What a body keeps, the whole operation keeps: a refusal changes no side, and neither do the acceptance and the
end of an operation that starts from idle machines (R222, R259). -/
theorem exec_keeps_sides {i : Instr} (hi : isRequest i = true) {s t : State} (hidle : isIdle s = true)
    (he : exec i s = .next t) :
    (KeepsTransmitSide (accept s) (bodyOf i (accept s)).1 → KeepsTransmitSide s t) ∧
      (KeepsReceiveSide (accept s) (bodyOf i (accept s)).1 → KeepsReceiveSide s t) ∧
      (KeepsBulkSide (accept s) (bodyOf i (accept s)).1 → KeepsBulkSide s t) := by
  obtain ⟨htx, hrx, hsq⟩ := idleMachines_of_isIdle hidle
  rcases exec_request_cases i hi s t he with ⟨r, _, rfl⟩ | ⟨_, ⟨v, _, rfl⟩ | ⟨k, _, _, rfl⟩⟩
  · exact ⟨fun _ => ⟨rfl, rfl, rfl⟩, fun _ => ⟨rfl, rfl, rfl⟩, fun _ => ⟨rfl, rfl⟩⟩
  all_goals
    refine ⟨fun ⟨h, hrest⟩ => ⟨?_, hrest⟩, fun ⟨h, hrest⟩ => ⟨?_, hrest⟩, fun ⟨h, hrest⟩ => ⟨?_, hrest⟩⟩
    · simp [h, htx]
    · simp [h, hrx]
    · simp [h, hsq]

/-- A request that is no OPEN and no SET_ADDRESS leaves the session registers as they were, and BUSY and the inputs
(R23 to R25, R28). -/
theorem exec_request_writes {i : Instr} (hi : isRequest i = true) {s t : State} (hidle : isIdle s = true)
    (ho : ∀ c a tmo, i ≠ .openChannel c a tmo) (ha : ∀ a, i ≠ .setAddress a) (he : exec i s = .next t) :
    t = { t with addr := s.addr, timeout := s.timeout, opened := s.opened, busy := s.busy, inputs := s.inputs } := by
  obtain ⟨hbusy, _⟩ := (isIdle_iff s).1 hidle
  obtain ⟨haddr, htimeout, hopened⟩ := exec_keeps_session he ho ha
  have hrest : t.busy = s.busy ∧ t.inputs = s.inputs := by
    obtain ⟨_, _, _, _, hinputs⟩ := body_keepsResult i (accept s)
    rcases exec_request_cases i hi s t he with ⟨r, _, rfl⟩ | ⟨_, ⟨v, _, rfl⟩ | ⟨k, _, _, rfl⟩⟩
    · exact ⟨rfl, rfl⟩
    · exact ⟨hbusy.symm, hinputs⟩
    · exact ⟨hbusy.symm, hinputs⟩
  obtain ⟨hbusy', hinputs⟩ := hrest
  rw [← haddr, ← htimeout, ← hopened, ← hbusy', ← hinputs]

/-- Settles O50: of the fields that a request may write at all, each body keeps the sides it has no part in. -/
theorem operationsWriteOnlyTheirRegisters : Obligations.OperationsWriteOnlyTheirRegisters := by
  unfold Obligations.OperationsWriteOnlyTheirRegisters
  intro s t i hidle he
  cases i with
  | decode raw ea et =>
    obtain ⟨htransmit, _, hbulkSide⟩ := exec_keeps_sides rfl hidle he
    obtain ⟨htx, htxpay, hframe⟩ := htransmit (decodeBuffer_keepsTransmitSide raw ea et _)
    obtain ⟨hsq, hbulk⟩ := hbulkSide (decodeBuffer_keepsBulkSide raw ea et _)
    have hchan := exec_request_chan rfl he (bodyOf_codec_chan (.inr (.inr ⟨raw, ea, et, rfl⟩)) _)
    exact (exec_request_writes rfl hidle (by simp) (by simp) he).trans
      (by simp only [htx, htxpay, hframe, hsq, hbulk, hchan])
  | receive et m =>
    obtain ⟨htransmit, _, hbulkSide⟩ := exec_keeps_sides rfl hidle he
    obtain ⟨htx, htxpay, hframe⟩ := htransmit (receiveFrame_keepsTransmitSide _ _ _)
    obtain ⟨hsq, hbulk⟩ := hbulkSide (receiveFrame_keepsBulkSide _ _ _)
    exact (exec_request_writes rfl hidle (by simp) (by simp) he).trans
      (by simp only [htx, htxpay, hframe, hsq, hbulk])
  | transfer p e =>
    obtain ⟨_, _, hbulkSide⟩ := exec_keeps_sides rfl hidle he
    obtain ⟨hsq, hbulk⟩ := hbulkSide (transferExchange_keepsBulkSide p e (transferFlush (accept s)))
    exact (exec_request_writes rfl hidle (by simp) (by simp) he).trans (by simp only [hsq, hbulk])
  | download n size =>
    obtain ⟨htransmit, _⟩ := exec_keeps_sides rfl hidle he
    obtain ⟨htx, htxpay, hframe⟩ := htransmit (dlRun_keeps (P := KeepsTransmitSide (accept s))
      (fun u h => h.trans (dlStep_keepsTransmitSide u)) n (dlStart n size (accept s)) ⟨rfl, rfl, rfl⟩)
    exact (exec_request_writes rfl hidle (by simp) (by simp) he).trans (by simp only [htx, htxpay, hframe])
  | upload b size =>
    obtain ⟨_, hreceive, _⟩ := exec_keeps_sides rfl hidle he
    obtain ⟨hrx, hraw, hrxpay⟩ := hreceive (ulRun_keeps (P := KeepsReceiveSide (accept s))
      (fun u h => h.trans (ulStep_keepsReceiveSide u)) _ (ulStart b size (accept s)) ⟨rfl, rfl, rfl⟩)
    exact (exec_request_writes rfl hidle (by simp) (by simp) he).trans (by simp only [hrx, hraw, hrxpay])
  | _ => trivial

end Sys2Proof.Proofs
end

section
/-! The family 41_checksum.md: CHECKSUM and its refusals (R140, R141), and which changes of the covered bytes the sum
shows (R145) and which it does not (R146). -/

namespace Sys2Proof.Proofs

open Sys2Proof Sys2Proof.Machine Sys2Proof.Laws

/-! ### The sum -/

theorem byteSum_be16 (v : Word16) : byteSum (be16 v) = v.toNat / 256 + v.toNat % 256 := by
  have hv := v.isLt
  simp only [byteSum, be16, List.map_cons, List.map_nil, List.sum_cons, List.sum_nil, BitVec.extractLsb'_toNat,
    Nat.shiftRight_eq_div_pow]
  omega

/-- R140, with the two length bytes written out. -/
theorem checksumOf_toNat (t : Byte) {p : Bytes} (hp : p.length ≤ maxPayload) :
    (checksumOf t p).toNat =
      ((p.length + 2) / 256 + (p.length + 2) % 256 + t.toNat + (p.map BitVec.toNat).sum) % 65536 := by
  rw [checksumOf, BitVec.toNat_ofNat, byteSum_be16, lenField_toNat p hp, byteSum]

/-- R142: the covered bytes, in the order of the wire. -/
theorem checksumOf_eq_ofNat_byteSum (t : Byte) (p : Bytes) :
    checksumOf t p = BitVec.ofNat 16 (byteSum (t :: be16 (lenField p) ++ p)) := by
  rw [← addBytes_wire_order, addBytes_eq]
  exact BitVec.zero_add _

/-- R146: a sum has no order. -/
theorem byteSum_perm {p q : Bytes} (h : p.Perm q) : byteSum p = byteSum q := (h.map BitVec.toNat).sum_eq

/-- Settles O13: the length and the sum of the payload are the same. -/
theorem checksumIgnoresPayloadOrder : Obligations.ChecksumIgnoresPayloadOrder := by
  unfold Obligations.ChecksumIgnoresPayloadOrder
  intro t p q h
  rw [checksumOf, checksumOf, lenField_congr h.length_eq, byteSum_perm h]

/-! ### CHECKSUM -/

/-- R224, between two operations: CHECKSUM needs no session. -/
theorem refusalOf_checksum {s : State} (hidle : isIdle s = true) (t : Byte) (p : Bytes) :
    refusalOf s.busy s.opened s.sq.seq (.checksum t p) =
      firstRefusal [(badType t, .badType), (badLength p, .badLength)] := by
  obtain ⟨hb, _⟩ := (isIdle_iff s).1 hidle
  rw [refusalOf, hb, firstRefusal]

/-- R140, R141. -/
theorem exec_accepted_checksum {s : State} (hidle : isIdle s = true) {t : Byte} {p : Bytes}
    (ht : badType t = false) (hp : badLength p = false) :
    exec (.checksum t p) s =
      .next { s with csum := checksumOf t p, err := 0, ref := 0, result := some (.ok (.word (checksumOf t p))) } := by
  have haccepted : refusalOf s.busy s.opened s.sq.seq (.checksum t p) = none := by
    rw [refusalOf_checksum hidle, ht, hp]
    rfl
  obtain ⟨hb, _⟩ := (isIdle_iff s).1 hidle
  obtain ⟨htx, hrx, hsq⟩ := idleMachines_of_isIdle hidle
  rw [exec_accepted rfl haccepted, bodyOf, checksumBody, accumulate_eq]
  simp only [conclude, succeed, idleMachines, accept, htx, hrx, hsq, hb]

/-- Settles O11: the first refusal of R224, or the accumulator's value between acceptance and success. -/
theorem checksumOperation : Obligations.ChecksumOperation := by
  unfold Obligations.ChecksumOperation
  intro s t p hidle
  refine ⟨fun ht => ?_, fun ht hp => ?_, fun ht hp => ?_⟩
  · have href := refusalOf_checksum hidle t p
    rw [(badType_true_iff t).2 ht] at href
    exact exec_refused rfl href
  · have hlen : badLength p = true := decide_eq_true hp
    have href := refusalOf_checksum hidle t p
    rw [(badType_false_iff t).2 ht, hlen] at href
    exact exec_refused rfl href
  · exact ⟨checksumOf t p, checksumOf_toNat t hp,
      exec_accepted_checksum hidle ((badType_false_iff t).2 ht) ((badLength_false_iff p).2 hp)⟩

/-! ### One changed byte, and a changed checksum field -/

/-- R145: the sum moves by the difference of the two bytes. -/
theorem byteSum_set_sub (bs : Bytes) (k : Nat) (b c : Byte) (h : bs[k]? = some b) :
    (byteSum (bs.set k c) : Int) - byteSum bs = (c.toNat : Int) - b.toNat := by
  have hsum := byteSum_set bs k b c h
  omega

theorem byte_difference_bounds {b c : Byte} (hc : c ≠ b) :
    1 ≤ |(c.toNat : Int) - b.toNat| ∧ |(c.toNat : Int) - b.toNat| ≤ 255 := by
  have hne : c.toNat ≠ b.toNat := mt BitVec.eq_of_toNat_eq hc
  have hb := b.isLt
  have hc' := c.isLt
  exact ⟨Int.one_le_abs (by omega), abs_le.2 ⟨by omega, by omega⟩⟩

/-- R145: a difference of 1 to 255 is no multiple of 65536. -/
theorem ofNat_ne_of_sub_bounds {m n : Nat} (h1 : 1 ≤ |(m : Int) - n|) (h2 : |(m : Int) - n| ≤ 255) :
    BitVec.ofNat 16 m ≠ BitVec.ofNat 16 n := by
  have hne : (m : Int) - n ≠ 0 := abs_pos.1 h1
  obtain ⟨hlow, hhigh⟩ := abs_le.1 h2
  rw [ne_eq, ← BitVec.toNat_inj, BitVec.toNat_ofNat, BitVec.toNat_ofNat]
  omega

/-- R145: step 10 of R101 fails when the steps before it do not. -/
theorem validate_altered_checksum (a ea : Word32) (t et : Byte) {p : Bytes} {ck : Word16} (hp : p.length ≤ maxPayload)
    (hck : ck ≠ checksumOf t p) (q : Bytes) :
    validate (frameHeader a t (lenField p) ++ p ++ be16 ck) ea et ≠ .ok q := by
  have h := validate_frame a ea t et p ck [] hp
  rw [List.append_nil, ← List.append_assoc, if_pos hck] at h
  rw [h]
  split_ifs <;> simp

theorem endsWith_unique {o : Host.Outcome State Fault Refusal} {r r' : OpResult} (h : EndsWith o r)
    (h' : EndsWith o r') : r = r' := by
  obtain ⟨t, rfl, ht⟩ := h
  obtain ⟨u, hu, hr⟩ := h'
  cases hu
  exact Option.some.inj (ht.symm.trans hr)

/-- DECODE delivers no payload but the one that its operand validates to. -/
theorem validate_of_endsWith_decode {s : State} (hidle : isIdle s = true) {raw : Bytes} {ea : Word32} {et : Byte}
    {q : Bytes} (h : EndsWith (exec (.decode raw ea et) s) (.ok (.bytes q))) : validate raw ea et = .ok q := by
  by_cases ht : et ∈ [0x01, 0x02, 0x07, 0x08]
  · have hresult := endsWith_unique (endsWith_decode hidle ((badType_false_iff et).2 ht) rfl) h
    cases hv : validate raw ea et with
    | ok p =>
      rw [hv] at hresult
      cases hresult
      rfl
    | error k =>
      rw [hv] at hresult
      cases hresult
  · obtain ⟨hrefused, _⟩ := decodeOperationByFirstFailure s ea et hidle
    have hrefusal : EndsWith (exec (.decode raw ea et) s) (.refused .badType) := ⟨_, hrefused raw ht, rfl⟩
    cases endsWith_unique hrefusal h

/-- Settles O12: the sum moves by the difference of two unequal bytes, and a frame with another checksum field validates
under no address and type. -/
theorem oneCoveredByteChangesTheSum : Obligations.OneCoveredByteChangesTheSum := by
  unfold Obligations.OneCoveredByteChangesTheSum
  refine ⟨checksumOf_eq_ofNat_byteSum, fun covered k b c h hc => ?_, fun s a t p ck hidle hp hck => ⟨?_, ?_⟩⟩
  · have hbounds := byte_difference_bounds hc
    rw [← byteSum_set_sub covered k b c h] at hbounds
    obtain ⟨hpos, hle⟩ := hbounds
    exact ⟨hpos, hle, ofNat_ne_of_sub_bounds hpos hle⟩
  · exact fun ea et q h => validate_altered_checksum a ea t.code et hp hck q (validate_of_endsWith_decode hidle h)
  · have hvalid := validate_checksum a t.code ck [] hp
    rw [List.append_nil, if_pos hck] at hvalid
    exact endsWith_decode hidle (badType_code t) hvalid

end Sys2Proof.Proofs
end

section
/-! The family 42_transport_session.md: the session operations (R154 to R158), their refusals, and the channel calls of
every operation (R159). What SEND_COMMAND, RECEIVE and SET_ADDRESS do is said once as an equation; TRANSFER and the
change of address are put together from these. -/

namespace Sys2Proof.Proofs

open Sys2Proof Sys2Proof.Machine Sys2Proof.Laws

/-! ### Refusals -/

/-- The operations that R223 refuses with NotOpen. -/
def NeedsSession : Instr → Prop
  | .sendCommand _ | .receive _ _ | .transfer _ _ | .setAddress _ | .download _ _ | .upload _ _ => True
  | _ => False

theorem exec_notOpen {i : Instr} (hi : NeedsSession i) {s : State} (hidle : isIdle s = true)
    (hopen : s.opened = false) : exec i s = .next (refuse .notOpen s) := by
  obtain ⟨hbusy, _, _, hseq⟩ := (isIdle_iff s).1 hidle
  cases i with
  | sendCommand | receive | transfer | setAddress | download | upload =>
    exact exec_refused rfl (by simp [refusalOf, firstRefusal, hbusy, hseq, hopen])
  | _ => cases hi

theorem refusalOf_sendCommand_badLength {s : State} (hidle : isIdle s = true) (hopen : s.opened = true) {p : Bytes}
    (hp : 65533 < p.length) : refusalOf s.busy s.opened s.sq.seq (.sendCommand p) = some .badLength := by
  obtain ⟨hbusy, _⟩ := (isIdle_iff s).1 hidle
  have hlen : badLength p = true := decide_eq_true hp
  simp [refusalOf, firstRefusal, hbusy, hopen, hlen]

/-! ### The end of an operation that wrote the session registers and the channel alone -/

section SessionWritten

variable {s : State} (hidle : isIdle s = true) (a : Word32) (tmo : Nat) (opened : Bool) (c : Channel)
include hidle

theorem succeed_session_written (v : OpValue) :
    succeed v { accept s with addr := a, timeout := tmo, opened := opened, chan := c } =
      { s with addr := a, timeout := tmo, opened := opened, chan := c, err := 0, ref := 0,
               result := some (.ok v) } := by
  obtain ⟨hbusy, _⟩ := (isIdle_iff s).1 hidle
  obtain ⟨htx, hrx, hsq⟩ := idleMachines_of_isIdle hidle
  simp only [succeed, idleMachines, accept, htx, hrx, hsq, hbusy]

theorem raise_channel_written (k : ErrorKind) :
    raise k { accept s with chan := c } =
      { s with chan := c, err := errCode k, ref := 0, result := some (.error k) } := by
  obtain ⟨hbusy, _⟩ := (isIdle_iff s).1 hidle
  obtain ⟨htx, hrx, hsq⟩ := idleMachines_of_isIdle hidle
  simp only [raise, idleMachines, accept, htx, hrx, hsq, hbusy]

end SessionWritten

/-! ### OPEN -/

theorem accepted_openChannel {s : State} (hidle : isIdle s = true) (hopen : s.opened = false) (c : Nat) (a : Word32)
    (tmo : Nat) : refusalOf s.busy s.opened s.sq.seq (.openChannel c a tmo) = none := by
  obtain ⟨hbusy, _⟩ := (isIdle_iff s).1 hidle
  simp [refusalOf, firstRefusal, hbusy, hopen]

/-- Settles O19: without a session the opening's answer decides between the two branches of R154. -/
theorem openOperation : Obligations.OpenOperation := by
  unfold Obligations.OpenOperation
  intro s c a tmo hidle
  refine ⟨fun hopen => ?_, fun hopen hanswer => ?_, fun hopen hanswer => ?_⟩
  · obtain ⟨hbusy, _⟩ := (isIdle_iff s).1 hidle
    have href : refusalOf s.busy s.opened s.sq.seq (.openChannel c a tmo) = some .alreadyOpen := by
      simp [refusalOf, firstRefusal, hbusy, hopen]
    exact exec_refused rfl href
  · rw [exec_accepted rfl (accepted_openChannel hidle hopen c a tmo), bodyOf, openBody, accept_chan, if_pos hanswer]
    exact congrArg _ (succeed_session_written hidle a tmo true (chanOpen c s.chan) .unit)
  · rw [exec_accepted rfl (accepted_openChannel hidle hopen c a tmo), bodyOf, openBody, accept_chan,
      if_neg (by simp [hanswer])]
    exact congrArg _ (raise_channel_written hidle (chanOpen c s.chan) .connectionError)

/-! ### SET_ADDRESS -/

/-- R158. -/
theorem exec_accepted_setAddress {s : State} (hidle : isIdle s = true) (hopen : s.opened = true) (a : Word32) :
    exec (.setAddress a) s = .next { s with addr := a, err := 0, ref := 0, result := some (.ok .unit) } := by
  obtain ⟨hbusy, _⟩ := (isIdle_iff s).1 hidle
  rw [exec_accepted rfl (by simp [refusalOf, firstRefusal, hbusy, hopen])]
  exact congrArg _ (succeed_session_written hidle a s.timeout s.opened s.chan .unit)

/-- Settles O24: a refusal, or the body's one write between acceptance and success. -/
theorem setAddressOperation : Obligations.SetAddressOperation := by
  unfold Obligations.SetAddressOperation
  intro s a hidle
  exact ⟨exec_notOpen (i := .setAddress a) trivial hidle, fun hopen => exec_accepted_setAddress hidle hopen a⟩

/-! ### SEND_COMMAND -/

/-- What a sent Command frame leaves, whatever the channel accepts of it, before the result is written (R155, R259). -/
def commandSent (p : Bytes) (s : State) : State := { sendFrame PacketType.command.code p s with ref := 0 }

section SendCommand

variable {s : State} (hidle : isIdle s = true) {p : Bytes} (hp : p.length ≤ maxPayload)
include hidle hp

/-- A send within the operation leaves idle machines, and BUSY is what its end clears. -/
theorem idle_sendFrame_accept :
    { idleMachines (sendFrame PacketType.command.code p (accept s)) with busy := false } = commandSent p s := by
  obtain ⟨hbusy, _, hrx, hsq⟩ := (isIdle_iff s).1 hidle
  rw [idleMachines_sendFrame (s := accept s) hp hrx hsq, commandSent, sendFrame_eq _ _ _ hp, sendFrame_eq _ _ _ hp,
    ← hbusy]
  rfl

variable (hopen : s.opened = true)
include hopen

/-- R155, when the channel accepts the whole frame. -/
theorem exec_sendCommand_whole
    (hw : writeCount (wireFrame s.addr PacketType.command.code p) s.chan = p.length + frameOverhead) :
    exec (.sendCommand p) s = .next { commandSent p s with err := 0, result := some (.ok .unit) } := by
  have hout : sendOutcome PacketType.command.code p (accept s) = .ok () :=
    (sendOutcome_eq _ _ _ hp).trans (if_neg (Nat.not_lt.2 (Nat.le_of_eq hw.symm)))
  rw [exec_accepted_sendCommand hidle hopen hp, hout, unitResult, conclude, succeed, ← idle_sendFrame_accept hidle hp]

/-- R150, R155, when it accepts less. -/
theorem exec_sendCommand_short
    (hw : writeCount (wireFrame s.addr PacketType.command.code p) s.chan < p.length + frameOverhead) :
    exec (.sendCommand p) s = .next { commandSent p s with err := 2, result := some (.error .writeError) } := by
  have hout : sendOutcome PacketType.command.code p (accept s) = .error .writeError :=
    (sendOutcome_eq _ _ _ hp).trans (if_pos hw)
  rw [exec_accepted_sendCommand hidle hopen hp, hout, unitResult, conclude, raise, ← idle_sendFrame_accept hidle hp]
  rfl

/-- What a SEND_COMMAND that ends with `Ok` leaves for the operations after it. -/
theorem exec_sendCommand_next
    (hw : writeCount (wireFrame s.addr PacketType.command.code p) s.chan = p.length + frameOverhead) :
    ∃ t, exec (.sendCommand p) s = .next t ∧ t.result = some (.ok .unit) ∧
      t.chan = chanWrite (wireFrame s.addr PacketType.command.code p) s.chan ∧ t.addr = s.addr ∧
      t.timeout = s.timeout ∧ t.opened = true ∧ isIdle t = true := by
  obtain ⟨hbusy, _, hrx, hsq⟩ := (isIdle_iff s).1 hidle
  have he := exec_sendCommand_whole hidle hp hopen hw
  rw [commandSent, sendFrame_eq _ _ _ hp] at he
  exact ⟨_, he, rfl, rfl, rfl, rfl, hopen, (isIdle_iff _).2 ⟨hbusy, rfl, hrx, hsq⟩⟩

end SendCommand

/-- Settles O20: a refusal, or a send whose write takes the whole frame or less. -/
theorem sendCommandOperation : Obligations.SendCommandOperation := by
  unfold Obligations.SendCommandOperation
  intro s p hidle
  refine ⟨exec_notOpen (i := .sendCommand p) trivial hidle,
    fun hopen hp => exec_refused rfl (refusalOf_sendCommand_badLength hidle hopen hp), fun hopen hp => ?_⟩
  have hwhole := exec_sendCommand_whole hidle hp hopen
  have hshort := exec_sendCommand_short hidle hp hopen
  rw [commandSent, sendFrame_eq _ _ _ hp] at hwhole hshort
  exact ⟨rfl, rfl, hwhole, hshort⟩

/-! ### RECEIVE -/

section Receive

variable {s : State} (hidle : isIdle s = true) (hopen : s.opened = true) {et : Byte} (ht : badType et = false) {m : Nat}
include hidle hopen ht

/-- R156: a read that answers `Closed`. -/
theorem exec_receive_closed (hread : readAnswer m s.chan = none) :
    exec (.receive et m) s = .next { s with chan := chanRead m s.timeout s.chan, err := 1, ref := 0,
                                            result := some (.error .connectionError) } := by
  rw [exec_accepted rfl (accepted_receive hidle hopen m ht), bodyOf, receiveBody, receiveOutcome_eq, receiveFrame,
    accept_chan, hread]
  exact congrArg _ (raise_channel_written hidle (chanRead m s.timeout s.chan) .connectionError)

/-- R156: a read that answers bytes is a DECODE of them. -/
theorem exec_receive_eq_decode {bs : Bytes} (hread : readAnswer m s.chan = some bs) :
    exec (.receive et m) s = exec (.decode bs s.addr et) { s with chan := chanRead m s.timeout s.chan } := by
  rw [exec_accepted rfl (accepted_receive hidle hopen m ht), bodyOf, receiveBody, receiveOutcome_eq, receiveFrame,
    accept_chan, hread, exec_accepted_decode (s := { s with chan := chanRead m s.timeout s.chan }) hidle bs s.addr ht]
  rfl

/-- R156: a read that answers a right frame, whatever follows it. -/
theorem exec_receive_wireFrame {p more : Bytes} (hp : p.length ≤ maxPayload)
    (hread : readAnswer m s.chan = some (wireFrame s.addr et p ++ more)) :
    ∃ t, exec (.receive et m) s = .next t ∧ t.result = some (.ok (.bytes p)) ∧ t.rxpay = p ∧ t.err = 0 ∧ t.ref = 0 ∧
      t.chan = chanRead m s.timeout s.chan ∧ t.addr = s.addr := by
  have hvalid := validate_wireFrame s.addr et p more hp
  rw [exec_receive_eq_decode hidle hopen ht hread,
    exec_accepted_decode (s := { s with chan := chanRead m s.timeout s.chan }) hidle _ _ ht, hvalid, decodeBuffer_eq,
    hvalid]
  exact ⟨_, rfl, rfl, rfl, rfl, rfl, rfl, rfl⟩

end Receive

/-- Settles O21: a refusal, or one read, whose answer is `Closed` or bytes for DECODE. -/
theorem receiveOperation : Obligations.ReceiveOperation := by
  unfold Obligations.ReceiveOperation
  intro s et m hidle
  refine ⟨exec_notOpen (i := .receive et m) trivial hidle, fun hopen ht => ?_, fun hopen ht => ?_,
    fun bs hopen ht => ?_, fun p more hopen ht hp hread => ?_⟩
  · obtain ⟨hbusy, _⟩ := (isIdle_iff s).1 hidle
    have href : refusalOf s.busy s.opened s.sq.seq (.receive et m) = some .badType := by
      simp [refusalOf, firstRefusal, hbusy, hopen, (badType_true_iff et).2 ht]
    exact exec_refused rfl href
  · exact exec_receive_closed hidle hopen ((badType_false_iff et).2 ht)
  · exact exec_receive_eq_decode hidle hopen ((badType_false_iff et).2 ht)
  · obtain ⟨t, he, hresult, hpay, herr, _, hrest⟩ :=
      exec_receive_wireFrame hidle hopen ((badType_false_iff et).2 ht) hp hread
    exact ⟨t, he, hresult, hpay, herr, hrest⟩

/-! ### TRANSFER -/

theorem transferFlush_txlog (s : State) : (transferFlush s).chan.txlog = s.chan.txlog := by
  simp [transferFlush, settle]

theorem transferFlush_calls (s : State) :
    (transferFlush s).chan.calls = s.chan.calls ++ [.flushInput, .flushOutput] := by
  simp [transferFlush, settle]

/-- Settles O23: TRANSFER is SEND_COMMAND on the flushed channel and then RECEIVE of an Ack (O22), so its calls and its
result are theirs. -/
theorem transferCompletes : Obligations.TransferCompletes := by
  unfold Obligations.TransferCompletes
  intro s p elen hidle
  refine ⟨exec_notOpen (i := .transfer p elen) trivial hidle,
    fun hopen hp => exec_refused (i := .transfer p elen) rfl (refusalOf_sendCommand_badLength hidle hopen hp),
    fun q more hopen hp hq hwrite hread => ?_⟩
  obtain ⟨u, hsend, huresult, huchan, huaddr, hutimeout, huopen, huidle⟩ :=
    exec_sendCommand_next (s := transferFlush s) hidle hp hopen (hwrite.trans (wireFrame_length _ _ p))
  obtain ⟨_, htransfer⟩ := transferIsFlushSendReceive s u p elen hidle hopen hp hsend
  obtain ⟨t, he, hresult, _, herr, href, hchan, _⟩ :=
    exec_receive_wireFrame huidle huopen (badType_code .ack) hq (by rw [huchan, huaddr]; exact hread)
  refine ⟨t, (htransfer huresult).trans he, hresult, herr, href, ?_, ?_⟩
  · rw [hchan, chanRead_txlog, huchan, chanWrite_txlog, transferFlush_txlog]
    exact congrArg _ (List.take_of_length_le (Nat.le_of_eq hwrite.symm))
  · rw [hchan, chanRead_calls, huchan, chanWrite_calls, hutimeout, transferFlush_calls, List.append_assoc,
      List.append_assoc]
    rfl

/-! ### The address after SET_ADDRESS -/

@[simp] theorem conclude_frame (r : Option (Except ErrorKind OpValue)) (s : State) :
    (conclude r s).frame = s.frame := by rcases r with _ | _ | _ <;> rfl

/-- R101 step 5 on a frame of R100, whatever its type and payload. -/
theorem validate_wireFrame_address {a ea : Word32} (t et : Byte) (p : Bytes) (h : a ≠ ea) :
    validate (wireFrame a t p) ea et = .error .addressMismatch := by
  rw [wireFrame, List.append_assoc, validate_header, if_pos h]

/-- Settles O25: the read is validated under the ADDR that SET_ADDRESS wrote, and the frame is built under it. -/
theorem addressChangeTakesEffectAfterwards : Obligations.AddressChangeTakesEffectAfterwards := by
  unfold Obligations.AddressChangeTakesEffectAfterwards
  intro s t new hidle hopen he
  have hset := exec_accepted_setAddress hidle hopen new
  obtain ⟨haddr, hopen', hidle'⟩ : t.addr = new ∧ t.opened = true ∧ isIdle t = true := by
    cases hset.symm.trans he
    exact ⟨rfl, hopen, hidle⟩
  refine ⟨fun old et p m hne hread => ?_, fun p u hp hu => ?_⟩
  · rw [exec_receive_eq_decode hidle' hopen' (badType_code et) hread]
    exact endsWith_decode (s := { t with chan := chanRead m t.timeout t.chan }) hidle' (badType_code et)
      (validate_wireFrame_address et.code et.code p (haddr ▸ hne))
  · cases (exec_accepted_sendCommand hidle' hopen' hp).symm.trans hu
    rw [conclude_frame, sendFrame_eq _ _ _ hp, accept_addr, haddr]
    rfl

/-! ### The channel calls of every operation -/

/-- An instruction calls the channel in its body alone, and only when it is an accepted request. -/
theorem exec_calls_cases {i : Instr} {s t : State} (he : exec i s = .next t) :
    t.chan.calls = s.chan.calls ∨ t.chan.calls = (bodyOf i (accept s)).1.chan.calls ∧ operandsFit i := by
  rcases exec_cases he with ⟨bs, rfl⟩ | ⟨r, rfl⟩ | ⟨ha, r, _, rfl⟩
  · exact .inl rfl
  · exact .inl rfl
  · exact .inr ⟨by rw [conclude_chan], operandsFit_of_accepted ha⟩

theorem openBody_calls (c : Nat) (a : Word32) (tmo : Nat) (s : State) :
    (openBody c a tmo s).1.chan.calls = s.chan.calls ++ [.openChannel c] := by
  rw [← chanOpen_calls, openBody]
  split <;> rfl

theorem sendFrame_calls (t : Byte) (p : Bytes) (s : State) :
    (sendFrame t p s).chan.calls = s.chan.calls ++ [.write (encodeFrame s.addr t p s).frame] := rfl

theorem receiveFrame_calls (et : Byte) (m : Nat) (s : State) :
    (receiveFrame et m s).chan.calls = s.chan.calls ++ [.read m s.timeout] := by
  rw [receiveFrame_chan, chanRead_calls]

/-- R157: the read is made after a whole write. -/
theorem transferBody_calls (p : Bytes) (e : Nat) (s : State) :
    ∃ f, (transferBody p e s).1.chan.calls = s.chan.calls ++ [.flushInput, .flushOutput, .write f] ∨
      (transferBody p e s).1.chan.calls = s.chan.calls ++ [.flushInput, .flushOutput, .write f, .read e s.timeout] := by
  obtain ⟨_, _, htimeout, _⟩ := sendFrame_keeps PacketType.command.code p (transferFlush s)
  obtain ⟨f, hsend⟩ : ∃ f, (sendFrame PacketType.command.code p (transferFlush s)).chan.calls =
      s.chan.calls ++ [.flushInput, .flushOutput, .write f] :=
    ⟨_, by rw [sendFrame_calls, transferFlush_calls, List.append_assoc]; rfl⟩
  refine ⟨f, ?_⟩
  rw [transferBody, transferExchange]
  split
  · exact .inl hsend
  · right
    rw [receiveBody, receiveFrame_calls, hsend, htimeout, List.append_assoc]
    rfl

/-- A download step that goes on leaves PKTSZ as it was (R186). -/
theorem dlStep_pktsz_of_none {s : State} (h : (dlStep s).2 = none) : (dlStep s).1.sq.pktsz = s.sq.pktsz := by
  obtain ⟨p, hout, hlast, hp⟩ := dlStep_of_none h
  rw [dlStep_of_payload hout hlast hp]

/-- R181: one read a step, each of the same size. -/
theorem dlRun_calls (fuel : Nat) : ∀ s : State, ∃ k ≤ fuel, (dlRun fuel s).1.chan.calls =
    s.chan.calls ++ List.replicate k (.read (s.sq.pktsz.toNat + frameOverhead) s.timeout) := by
  induction fuel with
  | zero => exact fun s => ⟨0, Nat.le_refl 0, (List.append_nil _).symm⟩
  | succ fuel ih =>
    intro s
    have hcalls : (dlStep s).1.chan.calls = s.chan.calls ++ [.read (s.sq.pktsz.toNat + frameOverhead) s.timeout] := by
      rw [dlStep_chan, chanRead_calls]
    cases hstep : (dlStep s).2 with
    | some r => exact ⟨1, Nat.le_add_left 1 fuel, by rw [dlRun_of_some hstep, hcalls, List.replicate_one]⟩
    | none =>
      obtain ⟨_, _, htimeout, _⟩ := dlStep_keeps s
      obtain ⟨k, hk, hrest⟩ := ih (dlStep s).1
      refine ⟨k + 1, Nat.succ_le_succ hk, ?_⟩
      rw [dlRun_of_none hstep, hrest, hcalls, dlStep_pktsz_of_none hstep, htimeout, List.append_assoc,
        List.replicate_succ, List.singleton_append]

theorem ulRun_of_some {fuel : Nat} {s : State} {r : Except ErrorKind OpValue} (h : (ulStep s).2 = some r) :
    ulRun (fuel + 1) s = ulStep s := by
  rw [ulRun]
  generalize ulStep s = step at h
  obtain ⟨t, _⟩ := step
  cases h
  rfl

theorem ulRun_of_none {fuel : Nat} {s : State} (h : (ulStep s).2 = none) :
    ulRun (fuel + 1) s = ulRun fuel (ulStep s).1 := by
  rw [ulRun]
  generalize ulStep s = step at h
  obtain ⟨t, _⟩ := step
  cases h
  rfl

theorem ulStep_calls (s : State) : ∃ f, (ulStep s).1.chan.calls = s.chan.calls ++ [.write f] := by
  obtain ⟨_, _, hchan⟩ := ulStep_frame s
  exact ⟨_, by rw [hchan, sendFrame_calls]⟩

/-- R182: one write a step. -/
theorem ulRun_calls (fuel : Nat) : ∀ s : State, ∃ fs : List Bytes, fs.length ≤ fuel ∧
    (ulRun fuel s).1.chan.calls = s.chan.calls ++ fs.map ChanCall.write := by
  induction fuel with
  | zero => exact fun s => ⟨[], Nat.le_refl 0, (List.append_nil _).symm⟩
  | succ fuel ih =>
    intro s
    obtain ⟨f, hcalls⟩ := ulStep_calls s
    cases hstep : (ulStep s).2 with
    | some r => exact ⟨[f], Nat.le_add_left 1 fuel, by rw [ulRun_of_some hstep, hcalls]; rfl⟩
    | none =>
      obtain ⟨fs, hlen, hrest⟩ := ih (ulStep s).1
      refine ⟨f :: fs, Nat.succ_le_succ hlen, ?_⟩
      rw [ulRun_of_none hstep, hrest, hcalls, List.append_assoc, List.map_cons, List.singleton_append]

/-- Settles O46: an instruction that is not accepted makes no call, and an accepted one those of its body. -/
theorem channelCallsPerOperation : Obligations.ChannelCallsPerOperation := by
  unfold Obligations.ChannelCallsPerOperation
  intro s t i he
  rcases exec_calls_cases he with hnone | ⟨hbody, hfit⟩
  · refine ⟨[], by rw [hnone, List.append_nil], ?_⟩
    cases i with
    | openChannel | sendCommand | receive | transfer => exact .inl rfl
    | download n size => exact ⟨0, Nat.zero_le n, rfl⟩
    | upload b size => exact ⟨[], Nat.zero_le _, rfl⟩
    | _ => rfl
  · have hcodec (h : IsCodecOperation i) : t.chan.calls = s.chan.calls ++ [] := by
      rw [hbody, bodyOf_codec_chan h, accept_chan, List.append_nil]
    cases i with
    | openChannel c a tmo => exact ⟨_, hbody.trans (openBody_calls c a tmo _), .inr rfl⟩
    | sendCommand p => exact ⟨_, hbody.trans (sendFrame_calls _ p _), .inr ⟨_, rfl⟩⟩
    | receive et m => exact ⟨_, hbody.trans (receiveFrame_calls et m _), .inr rfl⟩
    | transfer p m =>
      obtain ⟨f, hcalls | hcalls⟩ := transferBody_calls p m (accept s)
      · exact ⟨_, hbody.trans hcalls, .inr (.inl ⟨f, rfl⟩)⟩
      · exact ⟨_, hbody.trans hcalls, .inr (.inr ⟨f, rfl⟩)⟩
    | download n size =>
      obtain ⟨k, hk, hcalls⟩ := dlRun_calls n (dlStart n size (accept s))
      rw [dlStart_pktsz _ _ hfit] at hcalls
      exact ⟨_, hbody.trans hcalls, k, hk, rfl⟩
    | upload b size =>
      obtain ⟨fs, hlen, hcalls⟩ := ulRun_calls (ceilDiv b.length size) (ulStart b size (accept s))
      exact ⟨_, hbody.trans hcalls, fs, hlen, rfl⟩
    | encode a ty p => exact ⟨[], hcodec (.inr (.inl ⟨a, ty, p, rfl⟩)), rfl⟩
    | decode raw ea et => exact ⟨[], hcodec (.inr (.inr ⟨raw, ea, et, rfl⟩)), rfl⟩
    | checksum ty p => exact ⟨[], hcodec (.inl ⟨ty, p, rfl⟩), rfl⟩
    | _ => exact ⟨[], hbody.trans (List.append_nil _).symm, rfl⟩

end Sys2Proof.Proofs
end

section
/-! The family 43_bulk_transfer.md: the refusals of the bulk operations (R181 to R183), one step of the sequencer
(R186, R188), the chunks of a buffer (R193), and whole transfers. A step is said as an equation for each of its ends; a
transfer is an induction over the payloads that are still to come (`DownloadFed`, `UploadLeft`), and what an upload puts
on the channel is the writing of its frames in order (`writeFrames`). -/

namespace Sys2Proof.Proofs

open Sys2Proof Sys2Proof.Machine Sys2Proof.Laws

/-! ### Refusals -/

theorem badPacketSize_true_iff (size : Nat) : badPacketSize size = true ↔ size = 0 ∨ 65533 < size := by
  rw [badPacketSize, Bool.or_eq_true, beq_iff_eq, decide_eq_true_eq, maxPayload]

section OpenIdle

variable {s : State} (hidle : isIdle s = true) (hopen : s.opened = true)
include hidle hopen

theorem refusalOf_download (n size : Nat) :
    refusalOf s.busy s.opened s.sq.seq (.download n size) =
      firstRefusal [(badCount n, .badCount), (badPacketSize size, .badPacketSize)] := by
  obtain ⟨hbusy, _, _, hseq⟩ := (isIdle_iff s).1 hidle
  simp [refusalOf, firstRefusal, hbusy, hseq, hopen]

theorem refusalOf_upload (b : Bytes) (size : Nat) :
    refusalOf s.busy s.opened s.sq.seq (.upload b size) =
      firstRefusal [(badPacketSize size, .badPacketSize), (emptyBuffer b, .emptyBuffer)] := by
  obtain ⟨hbusy, _, _, hseq⟩ := (isIdle_iff s).1 hidle
  simp [refusalOf, firstRefusal, hbusy, hseq, hopen]

end OpenIdle

/-- Settles O35: without a session both need one, and with one the operands' conditions stand in R224's order. -/
theorem bulkRefusals : Obligations.BulkRefusals := by
  unfold Obligations.BulkRefusals
  intro s n size b hidle
  refine ⟨fun hopen => ⟨?_, ?_⟩, fun hopen => ?_, fun hopen hn hsize => ?_, fun hopen hsize => ?_,
    fun hopen h1 h2 => ?_⟩
  · exact exec_notOpen (i := .download n size) trivial hidle hopen
  · exact exec_notOpen (i := .upload b size) trivial hidle hopen
  · exact exec_refused rfl (refusalOf_download hidle hopen 0 size)
  · have hcount : badCount n = false := by rw [badCount, beq_eq_false_iff_ne]; omega
    have href := refusalOf_download hidle hopen n size
    rw [hcount, (badPacketSize_true_iff size).2 hsize] at href
    exact exec_refused rfl href
  · have href := refusalOf_upload hidle hopen b size
    rw [(badPacketSize_true_iff size).2 hsize] at href
    exact exec_refused rfl href
  · have href := refusalOf_upload hidle hopen [] size
    rw [(badPacketSize_false_iff size).2 ⟨h1, h2⟩] at href
    exact exec_refused rfl href

/-! ### The type of a frame, told by its position -/

theorem isLast_iff (q : Sequencer) : isLast q = true ↔ q.idx + 1 = q.cntn := by
  simp [isLast]

theorem isLast_false_iff (q : Sequencer) : isLast q = false ↔ ¬ q.idx + 1 = q.cntn := by
  simp [isLast]

theorem bulkType_eq_ite (q : Sequencer) : bulkType q = if q.idx + 1 = q.cntn then 0x08 else 0x02 := by
  simp only [bulkType, isLast_iff]
  rfl

/-! ### One step of a download -/

/-- What the receive of a download step leaves (R186). -/
def dlReceived (s : State) : State := receiveFrame (bulkType s.sq) (s.sq.pktsz.toNat + frameOverhead) s

theorem dlStep_eq_of_error {s : State} {k : ErrorKind} (h : dlOutcome s = .error k) :
    dlStep s = ({ dlReceived s with bulk := [], sq := { s.sq with seq := .idle } }, some (.error k)) := by
  rw [dlOutcome] at h
  simp [dlStep, h, dlAbort, seqIdle, dlReceived]

theorem dlStep_eq_of_empty {s : State} (h : dlOutcome s = .ok []) (hlast : isLast s.sq = false) :
    dlStep s = ({ dlReceived s with bulk := [], sq := { s.sq with seq := .idle } },
      some (.error .shortTransfer)) := by
  rw [dlOutcome] at h
  simp [dlStep, h, hlast, dlAbort, seqIdle, dlReceived]

theorem dlStep_eq_of_last {s : State} {p : Bytes} (h : dlOutcome s = .ok p) (hlast : isLast s.sq = true) :
    dlStep s = ({ dlReceived s with bulk := s.bulk ++ p, sq := { s.sq with seq := .idle } },
      some (.ok (.bytes (s.bulk ++ p)))) := by
  rw [dlOutcome] at h
  simp [dlStep, h, hlast, seqIdle, dlReceived]

/-- Settles O26: the four ends of the step. -/
theorem downloadStep : Obligations.DownloadStep := by
  unfold Obligations.DownloadStep
  intro s _
  have htype := bulkType_eq_ite s.sq
  refine ⟨fun e h => ?_, fun p h hlast hp => ?_, fun p h hlast => ?_, fun p h hlast hp => ?_⟩ <;>
    rw [← htype] at h ⊢
  · exact dlStep_eq_of_error h
  · obtain rfl := List.length_eq_zero_iff.1 hp
    exact dlStep_eq_of_empty h ((isLast_false_iff s.sq).2 hlast)
  · exact dlStep_eq_of_last h ((isLast_iff s.sq).2 hlast)
  · exact dlStep_of_payload h ((isLast_false_iff s.sq).2 hlast) (mt List.length_eq_zero_iff.2 hp)

/-! ### One step of an upload -/

/-- The frame of an upload step (R188). -/
def ulFrame (s : State) : Bytes := wireFrame s.addr (bulkType s.sq) (ulChunk s)

theorem ulFrame_length (s : State) : (ulFrame s).length = chunkLen s + frameOverhead := by
  rw [ulFrame, wireFrame_length, ulChunk, memRead_length]

section UploadStep

variable {s : State} (hk : chunkLen s ≤ maxPayload)
include hk

theorem sendOutcome_ulFrame :
    sendOutcome (bulkType s.sq) (ulChunk s) s =
      if writeCount (ulFrame s) s.chan < (ulFrame s).length then .error .writeError else .ok () := by
  have hlen : (ulChunk s).length = chunkLen s := memRead_length _ _ _
  rw [sendOutcome_eq _ _ _ (hlen.trans_le hk), ulFrame_length, hlen, ulFrame]

theorem ulStep_eq_of_short (hw : writeCount (ulFrame s) s.chan < (ulFrame s).length) :
    ulStep s = ({ sendFrame (bulkType s.sq) (ulChunk s) s with sq := { s.sq with seq := .idle } },
      some (.error .writeError)) := by
  have hout := (sendOutcome_ulFrame hk).trans (if_pos hw)
  simp [ulStep, hout, seqIdle, sendFrame_sq]

variable (hw : writeCount (ulFrame s) s.chan = (ulFrame s).length)
include hw

theorem ulStep_eq_of_last (hlast : isLast s.sq = true) :
    ulStep s = ({ sendFrame (bulkType s.sq) (ulChunk s) s with
      sq := { s.sq with seq := .idle, pos := s.sq.pos + chunkLen s } }, some (.ok .unit)) := by
  have hout := (sendOutcome_ulFrame hk).trans (if_neg (Nat.not_lt.2 hw.ge))
  simp [ulStep, hout, hlast, seqIdle, sendFrame_sq]

theorem ulStep_eq_of_more (hlast : isLast s.sq = false) :
    ulStep s = ({ sendFrame (bulkType s.sq) (ulChunk s) s with
      sq := { s.sq with idx := s.sq.idx + 1, pos := s.sq.pos + chunkLen s } }, none) := by
  have hout := (sendOutcome_ulFrame hk).trans (if_neg (Nat.not_lt.2 hw.ge))
  simp [ulStep, hout, hlast, sendFrame_sq]

end UploadStep

/-- `ceil(m / S)` is the number of multiples of S below m. -/
theorem ceilDiv_eq_succ_iff {m size : Nat} (hs : 1 ≤ size) (i : Nat) :
    ceilDiv m size = i + 1 ↔ i * size < m ∧ m ≤ i * size + size := by
  rw [ceilDiv, Nat.div_eq_iff hs, Nat.add_mul]
  omega

/-- Settles O27: the three ends of the step, each with the frame that was sent; the position after the last chunk is
arithmetic. -/
theorem uploadStep : Obligations.UploadStep := by
  unfold Obligations.UploadStep
  intro s _ last t k chunk frame w sent hk
  have hchunk : ulChunk s = chunk := ulChunk_eq s
  have htype : bulkType s.sq = t := bulkType_eq_ite s.sq
  have hframe : ulFrame s = frame := by rw [ulFrame, hchunk, htype]
  have hlen : (ulFrame s).length = k + 11 := ulFrame_length s
  have hw : writeCount (ulFrame s) s.chan = w := by rw [hframe]
  have hsent : sendFrame (bulkType s.sq) (ulChunk s) s = sent := by
    have hp : chunk.length ≤ maxPayload := (List.length_take_le _ _).trans hk
    rw [htype, hchunk, sendFrame, encodeFrame_eq _ _ _ _ hp]
    simp only [sent, encodeFrame_eq _ _ _ _ hp]
    rfl
  rw [← hsent]
  refine ⟨fun h => ?_, fun h hlast => ?_, fun h hlast => ?_, fun hlast hs hcount hpos => ?_⟩
  · exact ulStep_eq_of_short hk (by omega)
  · exact ulStep_eq_of_last hk (by omega) ((isLast_iff s.sq).2 hlast)
  · exact ulStep_eq_of_more hk (by omega) ((isLast_false_iff s.sq).2 hlast)
  · have hends := (ceilDiv_eq_succ_iff hs s.sq.idx).1 (hcount.symm.trans hlast.symm)
    omega

/-! ### The chunks of a buffer -/

theorem ceilDiv_of_pos {m size : Nat} (hs : 1 ≤ size) (hm : 0 < m) :
    ceilDiv m size = ceilDiv (m - size) size + 1 := by
  refine (ceilDiv_eq_succ_iff hs _).2 ?_
  cases hrest : ceilDiv (m - size) size with
  | zero =>
    have : ¬ 0 < m - size := fun h => (ceilDiv_pos _ _ h hs).ne' hrest
    omega
  | succ i =>
    have := (ceilDiv_eq_succ_iff hs i).1 hrest
    rw [Nat.add_mul]
    omega

theorem chunks_nil (size : Nat) : chunks size [] = [] := by
  unfold chunks
  cases ceilDiv ([] : Bytes).length size <;> rfl

theorem chunks_of_ne_nil {size : Nat} (hs : 1 ≤ size) {b : Bytes} (hb : b ≠ []) :
    chunks size b = b.take size :: chunks size (b.drop size) := by
  rw [chunks, ceilDiv_of_pos hs (List.length_pos_iff.2 hb), chunksFuel, if_neg (by simpa using hb), chunks,
    List.length_drop]

theorem chunks_eq_nil_iff {size : Nat} (hs : 1 ≤ size) {b : Bytes} : chunks size b = [] ↔ b = [] := by
  refine ⟨fun h => ?_, fun h => h ▸ chunks_nil size⟩
  by_contra hb
  cases (chunks_of_ne_nil hs hb).symm.trans h

/-- A fact about a buffer's chunks is proved chunk by chunk. -/
theorem chunks_induction {size : Nat} (hs : 1 ≤ size) {P : Bytes → List Bytes → Prop} (nil : P [] [])
    (chunk : ∀ b, b ≠ [] → P (b.drop size) (chunks size (b.drop size)) →
      P b (b.take size :: chunks size (b.drop size))) (b : Bytes) : P b (chunks size b) := by
  induction hn : b.length using Nat.strong_induction_on generalizing b with
  | _ n ih =>
    by_cases hb : b = []
    · rw [hb, chunks_nil]
      exact nil
    · have := List.length_pos_iff.2 hb
      rw [chunks_of_ne_nil hs hb]
      exact chunk b hb (ih _ (by rw [List.length_drop]; omega) _ rfl)

section Chunks

variable {size : Nat} (hs : 1 ≤ size)
include hs

theorem flatten_chunks (b : Bytes) : (chunks size b).flatten = b := by
  refine chunks_induction hs (P := fun b cs => cs.flatten = b) rfl (fun b _ ih => ?_) b
  rw [List.flatten_cons, ih, List.take_append_drop]

theorem length_chunks (b : Bytes) : (chunks size b).length = ceilDiv b.length size := by
  refine chunks_induction hs (P := fun b cs => cs.length = ceilDiv b.length size) ?_ (fun b hb ih => ?_) b
  · exact (Nat.div_eq_of_lt (by simp; omega)).symm
  · rw [List.length_cons, ih, List.length_drop, ceilDiv_of_pos hs (List.length_pos_iff.2 hb)]

theorem length_of_mem_chunks (b : Bytes) : ∀ c ∈ chunks size b, 1 ≤ c.length ∧ c.length ≤ size := by
  refine chunks_induction hs (P := fun _ cs => ∀ c ∈ cs, 1 ≤ c.length ∧ c.length ≤ size) (by simp)
    (fun b hb ih => ?_) b
  have := List.length_pos_iff.2 hb
  refine List.forall_mem_cons.2 ⟨?_, ih⟩
  rw [List.length_take]
  omega

/-- A chunk that another follows is whole. -/
theorem length_of_mem_dropLast_chunks (b : Bytes) : ∀ c ∈ (chunks size b).dropLast, c.length = size := by
  refine chunks_induction hs (P := fun _ cs => ∀ c ∈ cs.dropLast, c.length = size) (by simp) (fun b _ ih => ?_) b
  by_cases hrest : chunks size (b.drop size) = []
  · simp [hrest]
  · have hlt : size < b.length := by
      rw [chunks_eq_nil_iff hs, List.drop_eq_nil_iff] at hrest
      omega
    rw [List.dropLast_cons_of_ne_nil hrest]
    refine List.forall_mem_cons.2 ⟨?_, ih⟩
    rw [List.length_take]
    omega

theorem getElem?_chunks (b : Bytes) : ∀ j c, (chunks size b)[j]? = some c → c = (b.drop (j * size)).take size := by
  refine chunks_induction hs (P := fun b cs => ∀ j c, cs[j]? = some c → c = (b.drop (j * size)).take size) (by simp)
    (fun b _ ih j c h => ?_) b
  cases j with
  | zero => simpa using h.symm
  | succ j =>
    rw [ih j c h, List.drop_drop, Nat.add_mul, Nat.one_mul, Nat.add_comm]

end Chunks

/-- Settles O31, each fact by going through the buffer chunk by chunk. -/
theorem chunksCoverTheBuffer : Obligations.ChunksCoverTheBuffer := by
  unfold Obligations.ChunksCoverTheBuffer
  exact fun b size hs => ⟨flatten_chunks hs b, length_chunks hs b, length_of_mem_chunks hs b,
    length_of_mem_dropLast_chunks hs b, getElem?_chunks hs b⟩

/-! ### What a download leaves in BULK -/

/-- A download's result is BULK, and BULK is empty after an error (R191). -/
def BulkMatches : Except ErrorKind OpValue → Bytes → Prop
  | .ok v, bulk => v = .bytes bulk
  | .error _, bulk => bulk = []

theorem dlStep_bulk {s : State} {r : Except ErrorKind OpValue} (h : (dlStep s).2 = some r) :
    BulkMatches r (dlStep s).1.bulk := by
  cases hout : dlOutcome s with
  | error k =>
    rw [dlStep_eq_of_error hout] at h ⊢
    cases h
    rfl
  | ok p =>
    cases hlast : isLast s.sq with
    | true =>
      rw [dlStep_eq_of_last hout hlast] at h ⊢
      cases h
      rfl
    | false =>
      by_cases hp : p = []
      · subst hp
        rw [dlStep_eq_of_empty hout hlast] at h ⊢
        cases h
        rfl
      · rw [dlStep_of_payload hout hlast hp] at h
        cases h

theorem dlRun_bulk (fuel : Nat) : ∀ {s : State} {r : Except ErrorKind OpValue}, (dlRun fuel s).2 = some r →
    BulkMatches r (dlRun fuel s).1.bulk := by
  induction fuel with
  | zero => intro s r h; cases h
  | succ fuel ih =>
    intro s r h
    cases hstep : (dlStep s).2 with
    | some r' =>
      rw [dlRun_of_some hstep] at h ⊢
      exact dlStep_bulk h
    | none =>
      rw [dlRun_of_none hstep] at h ⊢
      exact ih h

@[simp] theorem conclude_bulk (r : Option (Except ErrorKind OpValue)) (s : State) :
    (conclude r s).bulk = s.bulk := by rcases r with _ | _ | _ <;> rfl

theorem conclude_seq (r : Except ErrorKind OpValue) (s : State) : (conclude (some r) s).sq.seq = .idle := by
  cases r <;> rfl

/-- Settles O30: the run of the sequencer comes to an end, and each of its ends leaves BULK as the result says. -/
theorem failedDownloadLeavesNothing : Obligations.FailedDownloadLeavesNothing := by
  unfold Obligations.FailedDownloadLeavesNothing
  intro s n size hidle hopen hn h1 h2
  have ha := accepted_download hidle hopen hn h1 h2
  obtain ⟨r, hr⟩ : ∃ r, (downloadBody n size (accept s)).2 = some r :=
    body_ends (.download n size) rfl (accept s) _ _ _ ha
  have hbulk : BulkMatches r (downloadBody n size (accept s)).1.bulk := dlRun_bulk n hr
  refine ⟨_, exec_accepted rfl ha, ?_⟩
  rw [bodyOf, hr, conclude_result, conclude_bulk]
  refine ⟨conclude_seq r _, ?_⟩
  cases r with
  | error k => exact .inl ⟨k, rfl, hbulk⟩
  | ok v => exact .inr (congrArg (fun v => some (OpResult.ok v)) hbulk)

/-! ### Answers of a quiet channel -/

theorem nextEvent_of_script {c : Channel} {e : ChanEvent} {es : List ChanEvent} (h : c.script = e :: es) :
    nextEvent c = e := by
  simp only [nextEvent, h]

theorem takeEvent_script {c : Channel} {e : ChanEvent} {es : List ChanEvent} (h : c.script = e :: es) :
    (takeEvent c).script = es := by
  simp only [takeEvent, h]

/-- R151: a read that fits takes the frame which has just arrived, and leaves nothing pending. -/
theorem chanRead_quiet {c : Channel} {f : Bytes} {es : List ChanEvent} {m : Nat} (tmo : Nat)
    (hclosed : c.closed = false) (hpending : c.pending = []) (hscript : c.script = quietEvent f f.length 0 :: es)
    (hm : f.length ≤ m) :
    readAnswer m c = some f ∧ (chanRead m tmo c).closed = false ∧ (chanRead m tmo c).pending = [] ∧
      (chanRead m tmo c).script = es := by
  have hevent := nextEvent_of_script hscript
  refine ⟨?_, ?_, ?_, takeEvent_script hscript⟩
  · rw [readAnswer_open hclosed (by rw [hevent]; rfl), hevent, hpending]
    simp [quietEvent, hm]
  · rw [chanRead_closed, hclosed, hevent]
    rfl
  · rw [chanRead_pending_open hclosed (by rw [hevent]; rfl), hevent, hpending]
    simp [quietEvent, hm]

/-- R150. -/
theorem chanWrite_quiet {c : Channel} (f : Bytes) {w : Nat} {es : List ChanEvent} (hclosed : c.closed = false)
    (hscript : c.script = quietEvent [] 0 w :: es) :
    writeCount f c = min w f.length ∧ (chanWrite f c).closed = false ∧ (chanWrite f c).script = es := by
  have hevent := nextEvent_of_script hscript
  refine ⟨?_, ?_, takeEvent_script hscript⟩
  · simp [writeCount, hevent, hclosed, quietEvent]
  · rw [chanWrite_closed, hclosed, hevent]
    rfl

/-! ### The frames of a transfer, told by position -/

theorem isLast_of_left {q : Sequencer} {p : Bytes} {ps : List Bytes} (h : q.idx + (p :: ps).length = q.cntn) :
    isLast q = ps.isEmpty := by
  rw [List.length_cons] at h
  rw [Bool.eq_iff_iff, isLast_iff, List.isEmpty_iff, ← List.length_eq_zero_iff]
  omega

/-- R180: the sequencer gives a frame the type that its place in the transfer says. -/
theorem bulkFrames_of_left {q : Sequencer} {p : Bytes} {ps : List Bytes} (h : q.idx + (p :: ps).length = q.cntn)
    (a : Word32) : bulkFrames a (p :: ps) = wireFrame a (bulkType q) p :: bulkFrames a ps := by
  rw [bulkType, isLast_of_left h]
  cases ps <;> rfl

/-! ### A download whose frames arrive one by one -/

/-- The payloads `ps` are still to come in a download of packets of `size` bytes, and the next reads answer their frames
(R181). -/
structure DownloadFed (size : Nat) (later : List ChanEvent) (ps : List Bytes) (s : State) : Prop where
  left : s.sq.idx + ps.length = s.sq.cntn
  pktsz : s.sq.pktsz.toNat = size
  isOpen : s.chan.closed = false
  drained : s.chan.pending = []
  script : s.chan.script = (bulkFrames s.addr ps).map (fun f => quietEvent f f.length 0) ++ later

section DownloadFed

variable {size : Nat} {later : List ChanEvent} {p : Bytes} {ps : List Bytes} {s : State}
  (h : DownloadFed size later (p :: ps) s)
include h

theorem DownloadFed.dlStep_calls :
    (dlStep s).1.chan.calls = s.chan.calls ++ [.read (size + frameOverhead) s.timeout] := by
  rw [dlStep_chan, chanRead_calls, h.pktsz]

variable (hp : p.length ≤ size)
include hp

/-- The read of the next frame. -/
theorem DownloadFed.read :
    readAnswer (size + frameOverhead) s.chan = some (wireFrame s.addr (bulkType s.sq) p) ∧
      (dlStep s).1.chan.closed = false ∧ (dlStep s).1.chan.pending = [] ∧
      (dlStep s).1.chan.script = (bulkFrames s.addr ps).map (fun f => quietEvent f f.length 0) ++ later := by
  have hscript := h.script
  rw [bulkFrames_of_left h.left] at hscript
  rw [dlStep_chan, h.pktsz]
  exact chanRead_quiet s.timeout h.isOpen h.drained hscript (by rw [wireFrame_length]; omega)

theorem DownloadFed.dlOutcome_eq (hsize : size ≤ maxPayload) : dlOutcome s = .ok p := by
  have hvalid := validate_wireFrame s.addr (bulkType s.sq) p [] (hp.trans hsize)
  rw [List.append_nil] at hvalid
  obtain ⟨hread, _⟩ := h.read hp
  rw [dlOutcome, receiveOutcome_eq, h.pktsz, hread]
  exact hvalid

/-- A payload that is not the last is appended, and the next one is read after it. -/
theorem DownloadFed.next (hsize : size ≤ maxPayload) (hne : p ≠ []) (hmore : ps ≠ []) :
    (dlStep s).2 = none ∧ (dlStep s).1.bulk = s.bulk ++ p ∧ DownloadFed size later ps (dlStep s).1 := by
  have hlast : isLast s.sq = false := by rw [isLast_of_left h.left]; simpa using hmore
  have hstep := dlStep_of_payload (h.dlOutcome_eq hp hsize) hlast hne
  obtain ⟨_, hopen, hdrained, hscript⟩ := h.read hp
  obtain ⟨_, haddr, _⟩ := dlStep_keeps s
  have hleft := h.left
  have hpktsz := h.pktsz
  refine ⟨by rw [hstep], by rw [hstep], ?_, ?_, hopen, hdrained, by rw [haddr, hscript]⟩
  · rw [hstep]
    dsimp only
    rw [List.length_cons] at hleft
    omega
  · rw [hstep]
    exact hpktsz

end DownloadFed

/-- R181, R193: the payloads are joined behind what BULK holds, with one read for each. -/
theorem dlRun_of_fed {size : Nat} {later : List ChanEvent} (hsize : size ≤ maxPayload) (ps : List Bytes) :
    ∀ {s : State}, ps ≠ [] → (∀ p ∈ ps, p.length ≤ size) → (∀ p ∈ ps.dropLast, p ≠ []) →
      DownloadFed size later ps s →
      (dlRun ps.length s).2 = some (.ok (.bytes (s.bulk ++ ps.flatten))) ∧
        (dlRun ps.length s).1.chan.script = later ∧ (dlRun ps.length s).1.chan.pending = [] ∧
        (dlRun ps.length s).1.chan.calls =
          s.chan.calls ++ List.replicate ps.length (.read (size + frameOverhead) s.timeout) := by
  induction ps with
  | nil => intro s hne; exact absurd rfl hne
  | cons p ps ih =>
    intro s _ hfit hfull h
    obtain ⟨hp, hfit⟩ := List.forall_mem_cons.1 hfit
    obtain ⟨_, _, hdrained, hscript⟩ := h.read hp
    have hcalls := h.dlStep_calls
    rw [List.length_cons]
    by_cases hmore : ps = []
    · subst hmore
      have hend := dlStep_of_last (h.dlOutcome_eq hp hsize) (isLast_of_left h.left)
      rw [dlRun_of_some hend, hend]
      exact ⟨by simp, hscript, hdrained, hcalls⟩
    · rw [List.dropLast_cons_of_ne_nil hmore] at hfull
      obtain ⟨hne, hfull⟩ := List.forall_mem_cons.1 hfull
      obtain ⟨hnone, hbulk, hfed⟩ := h.next hp hsize hne hmore
      obtain ⟨_, _, htimeout, _⟩ := dlStep_keeps s
      obtain ⟨hresult, hrest, hpending, hreads⟩ := ih hmore hfit hfull hfed
      rw [dlRun_of_none hnone]
      refine ⟨?_, hrest, hpending, ?_⟩
      · rw [hresult, hbulk, List.append_assoc, List.flatten_cons]
      · rw [hreads, hcalls, htimeout, List.append_assoc, List.replicate_succ, List.singleton_append]

/-- Settles O29: the start of the download is a state that the payloads feed. -/
theorem downloadConcatenatesPayloads : Obligations.DownloadConcatenatesPayloads := by
  unfold Obligations.DownloadConcatenatesPayloads
  intro s ps size later hidle hopen h1 h2 hne hfit hfull hclosed hpending hscript
  have ha := accepted_download hidle hopen (List.length_pos_iff.2 hne) h1 h2
  have hfed : DownloadFed size later ps (dlStart ps.length size (accept s)) :=
    ⟨Nat.zero_add _, dlStart_pktsz _ _ h2, hclosed, hpending, hscript⟩
  obtain ⟨hresult, hscript', hpending', hcalls⟩ := dlRun_of_fed h2 ps hne hfit hfull hfed
  have hbulk := dlRun_bulk _ hresult
  obtain ⟨_, haddr, _⟩ := dlRun_session ps.length (dlStart ps.length size (accept s))
  refine ⟨_, exec_accepted rfl ha, ?_⟩
  rw [bodyOf, downloadBody, hresult]
  exact ⟨rfl, (OpValue.bytes.inj hbulk).symm, rfl, rfl, hscript', hpending', haddr, hcalls⟩

/-! ### Frames written in order -/

/-- The channel after these frames are written in order up to the first short write, and whether there was none
(R182). -/
def writeFrames : List Bytes → Channel → Channel × Bool
  | [], c => (c, true)
  | f :: fs, c => if writeCount f c < f.length then (chanWrite f c, false) else writeFrames fs (chanWrite f c)

theorem writeFrames_of_short {f : Bytes} {c : Channel} (fs : List Bytes) (h : writeCount f c < f.length) :
    writeFrames (f :: fs) c = (chanWrite f c, false) := if_pos h

theorem writeFrames_of_whole {f : Bytes} {c : Channel} (fs : List Bytes) (h : ¬ writeCount f c < f.length) :
    writeFrames (f :: fs) c = writeFrames fs (chanWrite f c) := if_neg h

/-- Frames that are all taken whole are all in TXLOG, in order, and nothing was read. -/
theorem writeFrames_whole (fs : List Bytes) : ∀ {c d : Channel}, writeFrames fs c = (d, true) →
    d.txlog = c.txlog ++ fs.flatten ∧ d.rxlog = c.rxlog ∧ d.calls = c.calls ++ fs.map ChanCall.write := by
  induction fs with
  | nil => intro c d h; cases h; simp
  | cons f fs ih =>
    intro c d h
    by_cases hw : writeCount f c < f.length
    · cases (writeFrames_of_short fs hw).symm.trans h
    · obtain ⟨htx, hrx, hcalls⟩ := ih ((writeFrames_of_whole fs hw).symm.trans h)
      rw [htx, hrx, hcalls, chanWrite_txlog, chanWrite_rxlog, chanWrite_calls,
        List.take_of_length_le (Nat.not_lt.1 hw)]
      simp

/-- A channel that has been told to take these frames whole does so, and writes go on from there. -/
theorem writeFrames_quiet {later : List ChanEvent} (fs rest : List Bytes) : ∀ {c : Channel}, c.closed = false →
    c.script = fs.map (fun f => quietEvent [] 0 f.length) ++ later →
    ∃ d, writeFrames fs c = (d, true) ∧ writeFrames (fs ++ rest) c = writeFrames rest d ∧ d.closed = false ∧
      d.script = later := by
  induction fs with
  | nil => exact fun {c} hclosed hscript => ⟨c, rfl, rfl, hclosed, hscript⟩
  | cons f fs ih =>
    intro c hclosed hscript
    obtain ⟨hw, hclosed', hscript'⟩ := chanWrite_quiet f hclosed hscript
    have hwhole : ¬ writeCount f c < f.length := by omega
    rw [List.cons_append, writeFrames_of_whole fs hwhole, writeFrames_of_whole (fs ++ rest) hwhole]
    exact ih hclosed' hscript'

/-! ### A whole upload -/

/-- The chunks `cs` are still to be sent in an upload (R187, R188). -/
structure UploadLeft (cs : List Bytes) (s : State) : Prop where
  size_pos : 1 ≤ s.sq.pktsz.toNat
  size_legal : pktszLegal s = true
  left : s.sq.idx + cs.length = s.sq.cntn
  chunks_eq : chunks s.sq.pktsz.toNat (s.bulk.drop s.sq.pos) = cs

/-- R188: an upload reads BULK and writes nothing to it. -/
theorem ulStep_bulk (s : State) : (ulStep s).1.bulk = s.bulk := by
  obtain ⟨_, hsend⟩ := sendFrame_keepsBulkSide (bulkType s.sq) (ulChunk s) s
  unfold ulStep
  dsimp only
  generalize sendFrame (bulkType s.sq) (ulChunk s) s = t at hsend ⊢
  split
  · exact hsend
  · split <;> exact hsend

/-- R188: the step moves past the bytes of one packet. -/
theorem drop_chunkLen (s : State) :
    s.bulk.drop (s.sq.pos + chunkLen s) = (s.bulk.drop s.sq.pos).drop s.sq.pktsz.toNat := by
  rw [List.drop_drop, chunkLen, Nat.min_def]
  split
  · rfl
  · rw [List.drop_of_length_le (by omega), List.drop_of_length_le (by omega)]

theorem ulChunk_eq_take (s : State) : ulChunk s = (s.bulk.drop s.sq.pos).take s.sq.pktsz.toNat := by
  rw [ulChunk_eq, chunkLen, ← List.length_drop, ← List.take_eq_take_min]

section UploadLeft

variable {c : Bytes} {cs : List Bytes} {s : State} (h : UploadLeft (c :: cs) s)
include h

theorem UploadLeft.drop_ne_nil : s.bulk.drop s.sq.pos ≠ [] := by
  rw [ne_eq, ← chunks_eq_nil_iff h.size_pos, h.chunks_eq]
  exact List.cons_ne_nil c cs

/-- The step sends the first of the chunks, and the others are those of the bytes behind it. -/
theorem UploadLeft.chunk : ulChunk s = c ∧ chunks s.sq.pktsz.toNat (s.bulk.drop (s.sq.pos + chunkLen s)) = cs := by
  rw [drop_chunkLen, ulChunk_eq_take]
  exact List.cons.inj ((chunks_of_ne_nil h.size_pos h.drop_ne_nil).symm.trans h.chunks_eq)

theorem UploadLeft.bulkFrames_eq : bulkFrames s.addr (c :: cs) = ulFrame s :: bulkFrames s.addr cs := by
  obtain ⟨hchunk, _⟩ := h.chunk
  rw [bulkFrames_of_left h.left, ulFrame, hchunk]

theorem UploadLeft.chunkLen_le : chunkLen s ≤ maxPayload := by
  have hlen : (ulChunk s).length = chunkLen s := memRead_length _ _ _
  exact hlen.ge.trans (ulChunk_length_le h.size_legal)

theorem UploadLeft.ulStep_chan : (ulStep s).1.chan = chanWrite (ulFrame s) s.chan := by
  obtain ⟨_, _, hchan⟩ := ulStep_frame s
  rw [hchan, sendFrame_eq _ _ _ (ulChunk_length_le h.size_legal), ulFrame]

/-- The last chunk ends where the buffer does. -/
theorem UploadLeft.pos_of_last (hlast : cs = []) : s.sq.pos + chunkLen s = s.bulk.length := by
  obtain ⟨_, hrest⟩ := h.chunk
  have hsome := h.drop_ne_nil
  rw [hlast, chunks_eq_nil_iff h.size_pos, List.drop_eq_nil_iff] at hrest
  rw [ne_eq, List.drop_eq_nil_iff] at hsome
  rw [chunkLen] at hrest ⊢
  omega

theorem UploadLeft.next (hw : writeCount (ulFrame s) s.chan = (ulFrame s).length) (hmore : cs ≠ []) :
    (ulStep s).2 = none ∧ UploadLeft cs (ulStep s).1 := by
  have hlast : isLast s.sq = false := by rw [isLast_of_left h.left]; simpa using hmore
  obtain ⟨_, hchunks⟩ := h.chunk
  have hleft := h.left
  rw [List.length_cons] at hleft
  have hlegal := pktszLegal_ulStep s h.size_legal
  have hbulk := ulStep_bulk s
  rw [ulStep_eq_of_more h.chunkLen_le hw hlast] at hlegal hbulk ⊢
  refine ⟨rfl, h.size_pos, hlegal, ?_, ?_⟩
  · dsimp only
    omega
  · dsimp only
    rw [hbulk]
    exact hchunks

end UploadLeft

/-- R182: an upload writes the frames of its chunks up to the first short write, which is its error; without one it has
gone through BULK. -/
theorem ulRun_of_left (cs : List Bytes) : ∀ {s : State}, cs ≠ [] → UploadLeft cs s →
    (writeFrames (bulkFrames s.addr cs) s.chan = ((ulRun cs.length s).1.chan, true) ∧
        (ulRun cs.length s).2 = some (.ok .unit) ∧ (ulRun cs.length s).1.sq.pos = s.bulk.length) ∨
      (writeFrames (bulkFrames s.addr cs) s.chan = ((ulRun cs.length s).1.chan, false) ∧
        (ulRun cs.length s).2 = some (.error .writeError)) := by
  induction cs with
  | nil => intro s hne; exact absurd rfl hne
  | cons c cs ih =>
    intro s _ h
    rw [List.length_cons, h.bulkFrames_eq]
    by_cases hw : writeCount (ulFrame s) s.chan < (ulFrame s).length
    · have hend : (ulStep s).2 = some (.error .writeError) := by rw [ulStep_eq_of_short h.chunkLen_le hw]
      rw [writeFrames_of_short _ hw, ulRun_of_some hend, h.ulStep_chan]
      exact .inr ⟨rfl, hend⟩
    · have hwhole : writeCount (ulFrame s) s.chan = (ulFrame s).length :=
        (writeCount_le _ _).antisymm (Nat.not_lt.1 hw)
      rw [writeFrames_of_whole _ hw, ← h.ulStep_chan]
      by_cases hlast : cs = []
      · have hstep := ulStep_eq_of_last h.chunkLen_le hwhole (by rw [isLast_of_left h.left, hlast]; rfl)
        have hend : (ulStep s).2 = some (.ok .unit) := by rw [hstep]
        rw [ulRun_of_some hend, hlast]
        refine .inl ⟨rfl, hend, ?_⟩
        rw [hstep]
        exact h.pos_of_last hlast
      · obtain ⟨hnone, hleft⟩ := h.next hwhole hlast
        obtain ⟨_, haddr, _⟩ := ulStep_keeps s
        have hrest := ih hlast hleft
        rw [haddr, ulStep_bulk] at hrest
        rw [ulRun_of_none hnone]
        exact hrest

theorem uploadLeft_ulStart {b : Bytes} {size : Nat} (s : State) (h1 : 1 ≤ size) (h2 : size ≤ maxPayload) :
    UploadLeft (chunks size b) (ulStart b size s) := by
  have hm : size ≤ 65533 := h2
  have hsize : (ulStart b size s).sq.pktsz.toNat = size := by
    simp only [ulStart, BitVec.toNat_ofNat]
    omega
  refine ⟨hsize.symm ▸ h1, pktszLegal_of_latched h2 rfl, ?_, ?_⟩
  · rw [length_chunks h1]
    exact Nat.zero_add _
  · rw [hsize]
    rfl

/-- R182: what an accepted UPLOAD leaves, whatever the channel takes of its frames. -/
theorem exec_upload_next {s : State} (hidle : isIdle s = true) (hopen : s.opened = true) {b : Bytes} {size : Nat}
    (hb : b ≠ []) (h1 : 1 ≤ size) (h2 : size ≤ maxPayload) :
    ∃ t, exec (.upload b size) s = .next t ∧ t.sq.seq = .idle ∧ t.bulk = b ∧ t.addr = s.addr ∧
      ((writeFrames (bulkFrames s.addr (chunks size b)) s.chan = (t.chan, true) ∧ t.result = some (.ok .unit) ∧
          t.err = 0 ∧ t.sq.pos = b.length) ∨
        (writeFrames (bulkFrames s.addr (chunks size b)) s.chan = (t.chan, false) ∧
          t.result = some (.error .writeError) ∧ t.err = 2)) := by
  have hend := ulRun_of_left _ (mt (chunks_eq_nil_iff h1).1 hb) (uploadLeft_ulStart (accept s) h1 h2)
  rw [length_chunks h1] at hend
  obtain ⟨_, haddr, _⟩ := ulRun_session (ceilDiv b.length size) (ulStart b size (accept s))
  have hbulk : (ulRun (ceilDiv b.length size) (ulStart b size (accept s))).1.bulk = b :=
    ulRun_keeps (P := fun u => u.bulk = b) (fun u hu => (ulStep_bulk u).trans hu) _ _ rfl
  refine ⟨_, exec_accepted rfl (accepted_upload hidle hopen hb h1 h2), ?_⟩
  rw [bodyOf, uploadBody, conclude_bulk, conclude_addr, conclude_chan]
  rcases hend with ⟨hwrites, hresult, hpos⟩ | ⟨hwrites, hresult⟩ <;> rw [hresult]
  · exact ⟨rfl, hbulk, haddr, .inl ⟨hwrites, rfl, rfl, hpos⟩⟩
  · exact ⟨rfl, hbulk, haddr, .inr ⟨hwrites, rfl, rfl⟩⟩

/-- Settles O32: the channel takes every frame whole, so TXLOG and the calls are the frames. -/
theorem uploadSendsTheChunks : Obligations.UploadSendsTheChunks := by
  unfold Obligations.UploadSendsTheChunks
  intro s b size later hidle hopen h1 h2 hb hclosed hscript
  obtain ⟨d, hwhole, _⟩ := writeFrames_quiet (bulkFrames s.addr (chunks size b)) [] hclosed hscript
  obtain ⟨t, he, hseq, hbulk, haddr, ⟨hwrites, hresult, herr, hpos⟩ | ⟨hwrites, _⟩⟩ :=
    exec_upload_next hidle hopen hb h1 h2
  · obtain ⟨htx, hrx, hcalls⟩ := writeFrames_whole _ hwrites
    exact ⟨t, he, hresult, herr, hseq, hpos, hbulk, haddr, hrx, htx, hcalls⟩
  · cases hwhole.symm.trans hwrites

/-- Settles O33: the writes reach the short one with the whole frames in TXLOG, and stop there. -/
theorem uploadStopsAtAShortWrite : Obligations.UploadStopsAtAShortWrite := by
  unfold Obligations.UploadStopsAtAShortWrite
  intro s b size w whole f unsent later hidle hopen h1 h2 hb hclosed hframes hw hscript
  obtain ⟨d, hwhole, hgoesOn, hdclosed, hdscript⟩ := writeFrames_quiet whole (f :: unsent) hclosed hscript
  obtain ⟨hcount, _, hlater⟩ := chanWrite_quiet f hdclosed hdscript
  rw [Nat.min_eq_left hw.le] at hcount
  have hstops : writeFrames (bulkFrames s.addr (chunks size b)) s.chan = (chanWrite f d, false) := by
    rw [hframes, hgoesOn, writeFrames_of_short unsent (hcount.trans_lt hw)]
  obtain ⟨htx, _⟩ := writeFrames_whole whole hwhole
  obtain ⟨t, he, hseq, _, _, ⟨hwrites, _⟩ | ⟨hwrites, hresult, herr⟩⟩ :=
    exec_upload_next hidle hopen hb h1 h2
  · obtain ⟨_, hflag⟩ := Prod.mk.inj (hstops.symm.trans hwrites)
    cases hflag
  · obtain ⟨hchan, _⟩ := Prod.mk.inj (hstops.symm.trans hwrites)
    refine ⟨t, he, hresult, herr, hseq, ?_, ?_⟩ <;> rw [← hchan]
    · exact hlater
    · rw [chanWrite_txlog, htx, hcount]

/-- R193: an upload that ends with `Ok` has written the frames of the chunks. -/
theorem frames_of_upload_ok {s t : State} (hidle : isIdle s = true) (hopen : s.opened = true) {b : Bytes} {size : Nat}
    {frames : List Bytes} (hb : b ≠ []) (h1 : 1 ≤ size) (h2 : size ≤ maxPayload)
    (he : exec (.upload b size) s = .next t) (hok : t.result = some (.ok .unit))
    (hcalls : t.chan.calls = s.chan.calls ++ frames.map ChanCall.write) :
    frames = bulkFrames s.addr (chunks size b) := by
  obtain ⟨u, hu, _, _, _, hend⟩ := exec_upload_next hidle hopen hb h1 h2
  cases he.symm.trans hu
  rcases hend with ⟨hwrites, _⟩ | ⟨_, hresult, _⟩
  · obtain ⟨_, _, hwritten⟩ := writeFrames_whole _ hwrites
    rw [hwritten] at hcalls
    have hinj : Function.Injective ChanCall.write := fun _ _ => ChanCall.write.inj
    exact (List.map_injective_iff.2 hinj (List.append_cancel_left hcalls)).symm
  · cases hok.symm.trans hresult

/-- Settles O34: the frames are those of the chunks (O32), which a download joins (O29) to the buffer (O31). -/
theorem uploadedFramesDownloadToTheBuffer : Obligations.UploadedFramesDownloadToTheBuffer := by
  unfold Obligations.UploadedFramesDownloadToTheBuffer
  intro s t u b size frames hidle huidle hopen huopen haddr hb h1 h2 he hok hcalls hclosed hpending hscript
  obtain rfl := frames_of_upload_ok hidle hopen hb h1 h2 he hok hcalls
  have hfit : ∀ c ∈ chunks size b, c.length ≤ size := fun c hc => (length_of_mem_chunks h1 b c hc).2
  have hfull : ∀ c ∈ (chunks size b).dropLast, c ≠ [] := fun c hc =>
    List.length_pos_iff.1 (length_of_mem_chunks h1 b c (List.mem_of_mem_dropLast hc)).1
  obtain ⟨v, hv, hresult, _⟩ := downloadConcatenatesPayloads u (chunks size b) size [] huidle huopen h1 h2
    (mt (chunks_eq_nil_iff h1).1 hb) hfit hfull hclosed hpending (by rw [hscript, haddr, List.append_nil])
  rw [length_chunks h1] at hv
  rw [flatten_chunks h1] at hresult
  exact ⟨v, hv, hresult⟩

end Sys2Proof.Proofs
end

section
/-! The family 60_exceptions.md: refusals and errors (R210 to R228), and what an outcome depends on (R240). That every
request comes to its end is said once (`exec_request_ends`); what two runs of a request have in common is said of the
part of the state that an operation may read (`AgreeOnSession`). -/

namespace Sys2Proof.Proofs

open Sys2Proof Sys2Proof.Machine Sys2Proof.Laws

/-! ### Which refusal comes first -/

/-- R224: Busy is the first condition of every request. -/
theorem refusalOf_busy {i : Instr} (hi : isRequest i = true) (opened : Bool) (seq : SeqPhase) :
    refusalOf true opened seq i = some .busy := by
  cases i with
  | frameCommand | frameData | frameAck | frameEndData => cases hi
  | _ => rfl

/-- A refusal is one of the operation's conditions, and that condition is met. -/
theorem mem_of_firstRefusal {r : RefuseReason} {l : List (Bool × RefuseReason)} (h : firstRefusal l = some r) :
    (true, r) ∈ l := by
  induction l with
  | nil => cases h
  | cons x l ih =>
    obtain ⟨b, q⟩ := x
    cases b with
    | true => cases h; exact List.mem_cons_self
    | false => exact List.mem_cons_of_mem _ (ih h)

/-- R242: NotOpen is no condition of a codec operation. -/
theorem refusalOf_codec_ne_notOpen {i : Instr} (hi : IsCodecOperation i) (busy opened : Bool) (seq : SeqPhase) :
    refusalOf busy opened seq i ≠ some .notOpen := by
  intro h
  rcases hi with ⟨ty, p, rfl⟩ | ⟨a, ty, p, rfl⟩ | ⟨raw, ea, et, rfl⟩ <;> simpa using mem_of_firstRefusal h

/-- Settles O37: Busy and NotOpen stand first in the lists of conditions, and NotOpen is not in those of the codec. -/
theorem busyAndNotOpenComeFirst : Obligations.BusyAndNotOpenComeFirst := by
  unfold Obligations.BusyAndNotOpenComeFirst
  refine ⟨fun s i hi hbusy => ?_, fun s p b et m n size a hidle hopen i hmem => ?_,
    fun s p raw t a _ i hmem hends => ?_⟩
  · exact exec_refused hi (hbusy ▸ refusalOf_busy hi _ _)
  · have hi : NeedsSession i := by
      simp only [List.mem_cons, List.not_mem_nil, or_false] at hmem
      rcases hmem with rfl | rfl | rfl | rfl | rfl | rfl <;> trivial
    exact exec_notOpen hi hidle hopen
  · have hi : IsCodecOperation i := by
      simp only [List.mem_cons, List.not_mem_nil, or_false] at hmem
      rcases hmem with rfl | rfl | rfl
      · exact .inr (.inl ⟨a, t, p, rfl⟩)
      · exact .inr (.inr ⟨raw, a, t, rfl⟩)
      · exact .inl ⟨t, p, rfl⟩
    obtain ⟨v, he, hresult⟩ := hends
    obtain ⟨_, hnot⟩ := refusedRequestChangesOnlyRefAndErr s v i .notOpen (isRequest_codec hi) he
    cases href : refusalOf s.busy s.opened s.sq.seq i with
    | none => exact hnot href hresult
    | some r =>
      cases (exec_refused (isRequest_codec hi) href).symm.trans he
      cases hresult
      exact refusalOf_codec_ne_notOpen hi _ _ _ href

/-! ### The end of a request -/

/-- R228: a request is refused, or its body comes to a result and the operation ends with it. -/
theorem exec_request_ends {i : Instr} (hi : isRequest i = true) (s : State) :
    (∃ r, refusalOf s.busy s.opened s.sq.seq i = some r ∧ exec i s = .next (refuse r s)) ∨
      (refusalOf s.busy s.opened s.sq.seq i = none ∧ ∃ r, (bodyOf i (accept s)).2 = some r ∧
        exec i s = .next (conclude (some r) (bodyOf i (accept s)).1)) := by
  cases href : refusalOf s.busy s.opened s.sq.seq i with
  | some r => exact .inl ⟨r, rfl, exec_refused hi href⟩
  | none =>
    obtain ⟨r, hr⟩ := body_ends i hi (accept s) _ _ _ href
    exact .inr ⟨rfl, r, hr, hr ▸ exec_accepted hi href⟩

/-- Settles O38: a refusal leaves the machines as they were, and the end of an operation brings them to idle. -/
theorem everyRequestEnds : Obligations.EveryRequestEnds := by
  unfold Obligations.EveryRequestEnds
  intro s i hi hidle
  rcases exec_request_ends hi s with ⟨r, _, he⟩ | ⟨_, r, hr, he⟩
  · exact ⟨_, .refused r, he, rfl, hidle, codesAgree_refuse r s⟩
  · exact ⟨_, delivered r, he, conclude_result r _, isIdle_conclude r _, codesAgree_conclude i s r hr⟩

/-! ### The end with an error -/

/-- The error that an accepted request delivers is its body's (R216). -/
theorem exec_error_eq_raise {i : Instr} (hi : isRequest i = true) {s t : State} {k : ErrorKind}
    (ha : refusalOf s.busy s.opened s.sq.seq i = none) (he : exec i s = .next t)
    (hresult : t.result = some (.error k)) :
    (bodyOf i (accept s)).2 = some (.error k) ∧ t = raise k (bodyOf i (accept s)).1 := by
  rcases exec_request_cases i hi s t he with ⟨r, hr, _⟩ | ⟨_, ⟨v, _, rfl⟩ | ⟨j, hj, _, rfl⟩⟩
  · cases ha.symm.trans hr
  · cases hresult
  · cases hresult
    exact ⟨hj, rfl⟩

/-- R217: a body that fails has written no session register; OPEN writes them on success only (R154). -/
theorem body_keepsSession_of_error {i : Instr} {s : State} {k : ErrorKind} (h : (bodyOf i s).2 = some (.error k)) :
    KeepsSession s (bodyOf i s).1 := by
  cases i with
  | openChannel c a tmo =>
    simp only [bodyOf, openBody] at h ⊢
    split at h
    · cases h
    · rename_i hanswer
      rw [if_neg hanswer]
      exact .refl s
  | setAddress a => cases h
  | _ => exact body_keepsSession _ s (by simp) (by simp)

/-- Settles O39: `raise` on a body that has kept the session registers and the cleared REF. -/
theorem errorEndsTheOperation : Obligations.ErrorEndsTheOperation := by
  unfold Obligations.ErrorEndsTheOperation
  intro s t i k hi ha he hresult
  obtain ⟨hbody, rfl⟩ := exec_error_eq_raise hi ha he hresult
  obtain ⟨⟨_, href, _⟩, haddr, htimeout, hopened⟩ := body_keepsSession_of_error hbody
  exact ⟨rfl, rfl, rfl, rfl, href, haddr, htimeout, hopened, by cases k <;> rfl⟩

/-- Settles O40: a body fails with the errors of its row, and StatusError is in none. -/
theorem errorsByOperation : Obligations.ErrorsByOperation := by
  unfold Obligations.ErrorsByOperation
  intro s t i k hi ha he hresult
  obtain ⟨hbody, _⟩ := exec_error_eq_raise hi ha he hresult
  have hk := body_errors i _ k hbody
  exact ⟨hk, fun hstatus => statusError_not_mem_canRaise i (hstatus ▸ hk)⟩

/-! ### Two states under one session -/

/-- ADDR, TIMEOUT and the channel are the same. -/
structure SameLink (s u : State) : Prop where
  addr : s.addr = u.addr
  timeout : s.timeout = u.timeout
  chan : s.chan = u.chan

/-- R182, R188: what an upload returns and leaves of the channel, told by the writing of its frames. -/
theorem uploadBody_writes {b : Bytes} {size : Nat} (s : State) (hb : b ≠ []) (h1 : 1 ≤ size)
    (h2 : size ≤ maxPayload) :
    (uploadBody b size s).1.chan = (writeFrames (bulkFrames s.addr (chunks size b)) s.chan).1 ∧
      (uploadBody b size s).2 = some (if (writeFrames (bulkFrames s.addr (chunks size b)) s.chan).2 then .ok .unit
        else .error .writeError) := by
  have hrun := ulRun_of_left _ (mt (chunks_eq_nil_iff h1).1 hb) (uploadLeft_ulStart s h1 h2)
  rw [length_chunks h1] at hrun
  rcases hrun with ⟨hrun, hresult, _⟩ | ⟨hrun, hresult⟩
  all_goals
    have hwrites : writeFrames (bulkFrames s.addr (chunks size b)) s.chan = _ := hrun
    rw [hwrites]
    exact ⟨rfl, hresult⟩

/-- The operands of an accepted upload (R182). -/
theorem operands_of_accepted_upload {busy opened : Bool} {seq : SeqPhase} {b : Bytes} {size : Nat}
    (ha : refusalOf busy opened seq (.upload b size) = none) : b ≠ [] ∧ 1 ≤ size ∧ size ≤ maxPayload := by
  simp only [refusalOf, firstRefusal_eq_none_iff] at ha
  have hsize : badPacketSize size = false := ha (badPacketSize size, .badPacketSize) (by simp)
  have hb : emptyBuffer b = false := ha (emptyBuffer b, .emptyBuffer) (by simp)
  exact ⟨by simpa [emptyBuffer] using hb, (badPacketSize_false_iff size).1 hsize⟩

theorem prependBytes_nil (r : Except ErrorKind OpValue) : prependBytes [] r = r := by
  rcases r with _ | _ | _ | _ <;> rfl

section SameLink

variable {s u : State} (h : SameLink s u)
include h

theorem SameLink.sendFrame (t : Byte) {p : Bytes} (hp : p.length ≤ maxPayload) :
    SameLink (sendFrame t p s) (sendFrame t p u) := by
  rw [sendFrame_eq _ _ _ hp, sendFrame_eq _ _ _ hp]
  exact ⟨h.addr, h.timeout, by rw [h.addr, h.chan]⟩

theorem SameLink.sendOutcome (t : Byte) {p : Bytes} (hp : p.length ≤ maxPayload) :
    sendOutcome t p s = sendOutcome t p u := by
  rw [sendOutcome_eq _ _ _ hp, sendOutcome_eq _ _ _ hp, h.addr, h.chan]

theorem SameLink.receiveBody (et : Byte) (m : Nat) :
    (receiveBody et m s).2 = (receiveBody et m u).2 ∧ (receiveBody et m s).1.chan = (receiveBody et m u).1.chan := by
  simp only [Machine.receiveBody, receiveOutcome_eq, receiveFrame_chan, h.addr, h.timeout, h.chan, and_self]

theorem SameLink.transferFlush : SameLink (transferFlush s) (transferFlush u) :=
  ⟨h.addr, h.timeout, congrArg (fun c => chanFlushOutput (chanFlushInput c)) h.chan⟩

theorem SameLink.transferExchange {p : Bytes} (e : Nat) (hp : p.length ≤ maxPayload) :
    (transferExchange p e s).2 = (transferExchange p e u).2 ∧
      (transferExchange p e s).1.chan = (transferExchange p e u).1.chan := by
  have hsend := h.sendFrame PacketType.command.code hp
  rw [Machine.transferExchange, Machine.transferExchange, h.sendOutcome _ hp]
  split
  · exact ⟨rfl, hsend.chan⟩
  · exact hsend.receiveBody _ _

theorem SameLink.downloadBody (n size : Nat) :
    (downloadBody n size s).2 = (downloadBody n size u).2 ∧
      (downloadBody n size s).1.chan = (downloadBody n size u).1.chan := by
  have hstart : DownloadAhead [] (dlStart n size s) (dlStart n size u) :=
    ⟨h.addr, h.timeout, h.chan, rfl, rfl, rfl⟩
  obtain ⟨hresult, hchan⟩ := hstart.dlRun_eq n
  rw [funext prependBytes_nil, Option.map_id'] at hresult
  exact ⟨hresult, hchan⟩

theorem SameLink.uploadBody {b : Bytes} {size : Nat} (hb : b ≠ []) (h1 : 1 ≤ size) (h2 : size ≤ maxPayload) :
    (uploadBody b size s).2 = (uploadBody b size u).2 ∧
      (uploadBody b size s).1.chan = (uploadBody b size u).1.chan := by
  obtain ⟨hchan, hresult⟩ := uploadBody_writes s hb h1 h2
  obtain ⟨hchan', hresult'⟩ := uploadBody_writes u hb h1 h2
  rw [hchan, hresult, hchan', hresult', h.addr, h.chan]
  exact ⟨rfl, rfl⟩

/-- R240: under one session, the result of a session or bulk operation and what it leaves of the channel depend on the
session and the channel alone. -/
theorem SameLink.bodyOf {i : Instr} (hi : NeedsSession i) {busy opened : Bool} {seq : SeqPhase}
    (ha : refusalOf busy opened seq i = none) :
    (bodyOf i s).2 = (bodyOf i u).2 ∧ (bodyOf i s).1.chan = (bodyOf i u).1.chan := by
  have hfit := operandsFit_of_accepted ha
  cases i with
  | sendCommand p => exact ⟨congrArg unitResult (h.sendOutcome _ hfit), (h.sendFrame _ hfit).chan⟩
  | receive et m => exact h.receiveBody et m
  | transfer p e => exact h.transferFlush.transferExchange e hfit
  | setAddress a => exact ⟨rfl, h.chan⟩
  | download n size => exact h.downloadBody n size
  | upload b size =>
    obtain ⟨hb, h1, h2⟩ := operands_of_accepted_upload ha
    exact h.uploadBody hb h1 h2
  | _ => cases hi

end SameLink

/-! ### Two states that agree where an operation may look -/

/-- OPENED and the channel are the same, and ADDR and TIMEOUT, "guarded by `OPENED`" (R240), while a session is open. -/
structure AgreeOnSession (s u : State) : Prop where
  opened : s.opened = u.opened
  chan : s.chan = u.chan
  guarded : s.opened = true → s.addr = u.addr ∧ s.timeout = u.timeout

/-- The ten operations: the codec's three, OPEN, and the six that need a session (R83, R223). -/
theorem isRequest_cases {i : Instr} (hi : isRequest i = true) :
    IsCodecOperation i ∨ (∃ c a tmo, i = .openChannel c a tmo) ∨ NeedsSession i := by
  cases i with
  | encode a t p => exact .inl (.inr (.inl ⟨a, t, p, rfl⟩))
  | decode raw ea et => exact .inl (.inr (.inr ⟨raw, ea, et, rfl⟩))
  | checksum t p => exact .inl (.inl ⟨t, p, rfl⟩)
  | openChannel c a tmo => exact .inr (.inl ⟨c, a, tmo, rfl⟩)
  | sendCommand | receive | transfer | setAddress | download | upload => exact .inr (.inr trivial)
  | _ => cases hi

theorem opened_of_accepted {i : Instr} (hi : NeedsSession i) {busy opened : Bool} {seq : SeqPhase}
    (ha : refusalOf busy opened seq i = none) : opened = true := by
  cases i with
  | sendCommand | receive | transfer | setAddress | download | upload =>
    simp only [refusalOf, firstRefusal_eq_none_iff] at ha
    simpa using ha (!opened, .notOpen) (by simp)
  | _ => cases hi

section AgreeOnSession

variable {s u : State} (h : AgreeOnSession s u)
include h

theorem AgreeOnSession.of_keepsSession {s' u' : State} (hs : KeepsSession s s') (hu : KeepsSession u u')
    (hchan : s'.chan = u'.chan) : AgreeOnSession s' u' := by
  obtain ⟨_, haddr, htimeout, hopened⟩ := hs
  obtain ⟨_, haddr', htimeout', hopened'⟩ := hu
  refine ⟨by rw [hopened, hopened', h.opened], hchan, ?_⟩
  rw [haddr, htimeout, hopened, haddr', htimeout']
  exact h.guarded

/-- R154: OPEN writes the two registers from its operands, so it reads neither. -/
theorem AgreeOnSession.openBody (c : Nat) (a : Word32) (tmo : Nat) :
    (openBody c a tmo s).2 = (openBody c a tmo u).2 ∧
      AgreeOnSession (openBody c a tmo s).1 (openBody c a tmo u).1 := by
  rw [Machine.openBody, Machine.openBody, h.chan]
  split
  · exact ⟨rfl, rfl, rfl, fun _ => ⟨rfl, rfl⟩⟩
  · exact ⟨rfl, h.opened, rfl, h.guarded⟩

/-- R240: an accepted operation reads no register but these. -/
theorem AgreeOnSession.bodyOf {i : Instr} (hi : isRequest i = true) {busy : Bool} {seq : SeqPhase}
    (ha : refusalOf busy s.opened seq i = none) :
    (bodyOf i s).2 = (bodyOf i u).2 ∧ AgreeOnSession (bodyOf i s).1 (bodyOf i u).1 := by
  rcases isRequest_cases hi with hcodec | ⟨c, a, tmo, rfl⟩ | hsession
  · have hkeeps (w : State) : KeepsSession w (Laws.bodyOf i w).1 := by
      rcases hcodec with ⟨ty, p, rfl⟩ | ⟨a, ty, p, rfl⟩ | ⟨raw, ea, et, rfl⟩ <;>
        exact body_keepsSession _ w (by simp) (by simp)
    refine ⟨bodyOf_codec_result hcodec (operandsFit_of_accepted ha) s u, h.of_keepsSession (hkeeps s) (hkeeps u) ?_⟩
    rw [bodyOf_codec_chan hcodec, bodyOf_codec_chan hcodec, h.chan]
  · exact h.openBody c a tmo
  · obtain ⟨haddr, htimeout⟩ := h.guarded (opened_of_accepted hsession ha)
    obtain ⟨hresult, hchan⟩ := SameLink.bodyOf ⟨haddr, htimeout, h.chan⟩ hsession ha
    refine ⟨hresult, ?_⟩
    cases i with
    | setAddress a => exact ⟨h.opened, hchan, fun _ => ⟨rfl, htimeout⟩⟩
    | openChannel => cases hsession
    | _ =>
      exact h.of_keepsSession (body_keepsSession _ s (by simp) (by simp)) (body_keepsSession _ u (by simp) (by simp))
        hchan

/-- R222, R240: two states that agree on the session, BUSY and SEQ give a request the same outcome. -/
theorem AgreeOnSession.exec {i : Instr} (hi : isRequest i = true) (hbusy : s.busy = u.busy)
    (hseq : s.sq.seq = u.sq.seq) {t v : State} (hs : exec i s = .next t) (hu : exec i u = .next v) :
    t.result = v.result ∧ t.err = v.err ∧ t.ref = v.ref ∧ t.busy = v.busy ∧ AgreeOnSession t v := by
  rcases exec_request_ends hi s with ⟨r, hr, he⟩ | ⟨ha, r, hr, he⟩ <;> cases he.symm.trans hs
  · rw [hbusy, h.opened, hseq] at hr
    cases (exec_refused hi hr).symm.trans hu
    exact ⟨rfl, rfl, rfl, hbusy, h.opened, h.chan, h.guarded⟩
  · have haccept : AgreeOnSession (accept s) (accept u) := ⟨h.opened, h.chan, h.guarded⟩
    obtain ⟨hresult, hopened, hchan, hguarded⟩ := haccept.bodyOf hi ha
    obtain ⟨_, href, _⟩ := body_keepsResult i (accept s)
    obtain ⟨_, href', _⟩ := body_keepsResult i (accept u)
    rw [hbusy, h.opened, hseq] at ha
    rw [exec_accepted hi ha, ← hresult, hr] at hu
    cases hu
    have hrefs := href.trans href'.symm
    cases r <;> exact ⟨rfl, rfl, hrefs, rfl, hopened, hchan, hguarded⟩

end AgreeOnSession

/-- A request after which no session is open has written neither ADDR nor TIMEOUT (R154, R158). -/
theorem exec_keeps_of_not_opened {i : Instr} {s t : State} (he : exec i s = .next t) (hopen : t.opened = false) :
    t.addr = s.addr ∧ t.timeout = s.timeout := by
  cases i with
  | openChannel c a tmo =>
    rcases exec_request_cases _ rfl s t he with ⟨r, _, rfl⟩ | ⟨_, ⟨v, hv, rfl⟩ | ⟨k, hk, _, rfl⟩⟩
    · exact ⟨rfl, rfl⟩
    · simp only [bodyOf, openBody] at hv hopen
      split at hv
      · rename_i hanswer
        rw [if_pos hanswer] at hopen
        cases hopen
      · cases hv
    · obtain ⟨_, haddr, htimeout, _⟩ := body_keepsSession_of_error hk
      exact ⟨haddr, htimeout⟩
  | setAddress a =>
    rcases exec_request_ends (i := .setAddress a) rfl s with ⟨r, _, he'⟩ | ⟨ha, _⟩
    · cases he'.symm.trans he
      exact ⟨rfl, rfl⟩
    · obtain ⟨_, hkept⟩ := exec_setAddress_keeps he
      have hopened : s.opened = true := opened_of_accepted (i := .setAddress a) trivial ha
      exact absurd (hopened.symm.trans (hkept.symm.trans hopen)) (by decide)
  | _ =>
    obtain ⟨haddr, htimeout, _⟩ := exec_keeps_session he (by simp) (by simp)
    exact ⟨haddr, htimeout⟩

/-- Settles O52: the outcome depends on what OPENED guards alone, and ADDR and TIMEOUT are the same after a request
also where no session guards them, since nothing has written them then. -/
theorem operationsIgnoreUnspecifiedRegisters : Obligations.OperationsIgnoreUnspecifiedRegisters := by
  unfold Obligations.OperationsIgnoreUnspecifiedRegisters
  constructor
  · rintro s u t v i hi ⟨haddr, htimeout, hopened, hbusy, hseq, hchan⟩ hs hu
    have hagree : AgreeOnSession s u := ⟨hopened, hchan, fun _ => ⟨haddr, htimeout⟩⟩
    obtain ⟨hresult, herr, href, hbusy', hopened', hchan', hguarded⟩ := hagree.exec hi hbusy hseq hs hu
    have hsession : t.addr = v.addr ∧ t.timeout = v.timeout := by
      cases hopen : t.opened with
      | true => exact hguarded hopen
      | false =>
        obtain ⟨ht, ht'⟩ := exec_keeps_of_not_opened hs hopen
        obtain ⟨hv, hv'⟩ := exec_keeps_of_not_opened hu (hopened'.symm.trans hopen)
        exact ⟨by rw [ht, hv, haddr], by rw [ht', hv', htimeout]⟩
    obtain ⟨haddr', htimeout'⟩ := hsession
    exact ⟨hresult, herr, href, hbusy', haddr', htimeout', hopened', hchan'⟩
  · intro s u t v i hi hs0 hu0 hbusy hseq hchan hs hu
    have hagree : AgreeOnSession s u :=
      ⟨hs0.trans hu0.symm, hchan, fun hopen => absurd (hs0.symm.trans hopen) (by decide)⟩
    obtain ⟨hresult, herr, href, hbusy', hopened', hchan', hguarded⟩ := hagree.exec hi hbusy hseq hs hu
    exact ⟨hresult, herr, href, hbusy', hopened', hchan', hguarded⟩

end Sys2Proof.Proofs
end

section
/-! The family 70_reset_and_hazards.md: the state after reset (R240) and the reset input (R241). The reset state meets
each part of the block invariant; a reset input takes the registers' values from it. -/

namespace Sys2Proof.Proofs

open Sys2Proof Sys2Proof.Machine Sys2Proof.Laws

/-- R240, R259: the block comes out of reset between two operations. -/
theorem isIdle_reset : isIdle State.reset = true := (isIdle_iff _).2 ⟨rfl, rfl, rfl, rfl⟩

/-- R240: there is no result yet, and ERR and REF are 0. -/
theorem codesAgree_reset : codesAgree State.reset = true := rfl

/-- R33, R240: the buffers are empty, and RXERR and PKTSZ are 0. -/
theorem storesLegal_reset : storesLegal State.reset := ⟨rfl, Memory.wf_reset, rfl⟩

/-- The base of `stepKeepsBlockInvariant`. -/
theorem blockInv_reset : blockInv State.reset = true :=
  (blockInv_iff _).2 ⟨isIdle_reset, codesAgree_reset, storesLegal_reset⟩

/-- Settles O8: the registers are R240's by definition, and each part of the invariant holds at reset. -/
theorem resetState : Obligations.ResetState := by
  unfold Obligations.ResetState
  obtain ⟨hbusy, htx, hrx, hseq⟩ := (isIdle_iff State.reset).1 isIdle_reset
  exact ⟨rfl, hbusy, rfl, rfl, htx, hrx, rfl, rfl, hseq, blockInv_reset⟩

/-- Settles O7: the step gives the reset state with the channel and the later inputs kept (`stepOnOtherInputs`), so its
registers are those of `resetState`, whatever the state before was. -/
theorem hostResetAbandonsTheSession : Obligations.HostResetAbandonsTheSession := by
  unfold Obligations.HostResetAbandonsTheSession
  intro s rest hin
  obtain ⟨_, _, _, _, step_reset, _⟩ := stepOnOtherInputs
  obtain ⟨hopened, hbusy, herr, href, htx, hrx, hgot, hrxerr, hseq, _⟩ := resetState
  exact ⟨_, step_reset s rest hin, hopened, hbusy, herr, href, htx, hrx, hgot, hrxerr, hseq, rfl, rfl, rfl⟩

end Sys2Proof.Proofs
end
